-- ==== Sys2Proof/Word.lean ====
section
/-! DEFINITION. The widths of PFCRC (spec/00_scope.md R7, R10) and the 4-byte group that holds a frame or a response. -/

namespace Sys2Proof

/-- A byte (R10): the unit of every host-visible data move (R42). -/
abbrev Byte := BitVec 8

/-- A value of the checksum accumulator, `CRC_WIDTH` = 16 bits (R7, R14). -/
abbrev Acc := BitVec 16

/-- A command word `CW[11:0]`, `CW_WIDTH` = 12 bits (R7, R51). -/
abbrev CommandWord := BitVec 12

/-- Four wire bytes written as one number `WF[31:0]`, the first byte sent in the top bits (R57). -/
abbrev WireWord := BitVec 32

/-- Four things at the indices 0 to 3 (`FRAME_LEN` = 4, R7): the shape of `FRAME` and `RESP` (R35). -/
structure Quad (α : Type) where
  b0 : α
  b1 : α
  b2 : α
  b3 : α
  deriving DecidableEq, Repr

end Sys2Proof
end

