-- ==== Sys2Proof/Syntax.lean ====
section
/-! DEFINITION. The instructions: one constructor per row of spec/opcode_table.json. Nine are commands of the block
(spec/30_encoding.md R54, spec/43_control.md R104), the tenth is the frame on the wire (R57, spec/41_frame_builder.md R85). -/

namespace Sys2Proof

/-- The ten rows of the opcode table. An operand has exactly the bits the encoding gives it (R53), so every value of an
operand of a command is legal; the checksum bytes of the wire frame are checked by `Instr.wellFormed`. -/
inductive Instr where
  /-- Do nothing (R101). -/
  | nop
  /-- Start a new checksum (R71). -/
  | crcInit
  /-- Take one message byte (R72). -/
  | crcByte (d : Byte)
  /-- Read one byte of the accumulator (R73). -/
  | crcRd (s : BitVec 1)
  /-- Build the reset frame for a device address (R82). -/
  | frmBuild (a : Byte)
  /-- Read one byte of the frame (R84). -/
  | frmRd (i : BitVec 2)
  /-- Empty the response buffer (R92). -/
  | rspClr
  /-- Append one received byte (R93). -/
  | rspPush (d : Byte)
  /-- Compare the response with the frame (R94). -/
  | cmp
  /-- The wire frame `RESET`: address, the fixed function byte, checksum low, checksum high (R57, R85). -/
  | resetFrame (address crcLo crcHi : Byte)
  deriving DecidableEq, Repr

/-- What an instruction is written as: a 12-bit command word (`CW12`, R51) or four wire bytes (`WF32`, R57). -/
inductive Encoded where
  /-- A word at the command port. -/
  | command (w : CommandWord)
  /-- Four bytes on the serial wire, as one number. -/
  | wire (w : WireWord)
  deriving DecidableEq, Repr

end Sys2Proof
end

