-- ==== Sys2Proof/Machine/Operands.lean ====
section
/-! DEFINITION. The fields of a command word and of a wire word (spec/30_encoding.md R51, R53, R57). An operand is the
operand byte or its low 1 or 2 bits, unsigned, never scaled or sign-extended. -/

namespace Sys2Proof.Machine

/-- The opcode `CW[11:8]` (R51). -/
def opField (w : CommandWord) : BitVec 4 := w.extractLsb' 8 4

/-- The operand byte `CW[7:0]` (R51): all of it is the operand of `CRC_BYTE`, `FRM_BUILD` and `RSP_PUSH` (R53). -/
def dataField (w : CommandWord) : Byte := w.extractLsb' 0 8

/-- The operand `s` of `CRC_RD`, `data[0]` (R53). -/
def selField (data : Byte) : BitVec 1 := data.extractLsb' 0 1

/-- The operand `i` of `FRM_RD`, `data[1:0]` (R53). -/
def indexField (data : Byte) : BitVec 2 := data.extractLsb' 0 2

/-- The bits of a `CRC_RD` operand byte that must be 0, `data[7:1]` (R53). -/
def aboveSel (data : Byte) : BitVec 7 := data.extractLsb' 1 7

/-- The bits of a `FRM_RD` operand byte that must be 0, `data[7:2]` (R53). -/
def aboveIndex (data : Byte) : BitVec 6 := data.extractLsb' 2 6

/-- The command word `{op, data}` (R51). -/
def commandWord (op : BitVec 4) (data : Byte) : CommandWord := op ++ data

/-- The wire word of four bytes, the first sent in the top bits (R57). -/
def wireWord (q : Quad Byte) : WireWord := q.b0 ++ q.b1 ++ q.b2 ++ q.b3

/-- The four bytes of a wire word, the first sent at index 0 (R57). -/
def wireBytes (w : WireWord) : Quad Byte :=
  ⟨w.extractLsb' 24 8, w.extractLsb' 16 8, w.extractLsb' 8 8, w.extractLsb' 0 8⟩

end Sys2Proof.Machine
end

