-- ==== Sys2Proof/Config.lean ====
section
/-! DEFINITION. The wired constants of the block (spec/00_scope.md R7, spec/10_state.md R26), the reference latencies and
the host's retry constants (R8). The spec leaves no value of the block itself open, so there is no free value here. -/

namespace Sys2Proof.Config

/-- `CRC_SEED`: `ACC` at the start of every checksum (R7). -/
def crcSeed : Acc := 0xFFFF

/-- `CRC_POLY`: exclusive-ored in after a shift when the bit shifted out was 1 (R7, R64). -/
def crcPoly : Acc := 0xA001

/-- `BITS_PER_BYTE`: bit steps for each input byte (R7, R65). -/
def bitsPerByte : Nat := 8

/-- `FUNC_RESET`: the function code of the frame (R7, R88). -/
def funcReset : Byte := 0x42

/-- `FRAME_LEN`: the bytes of a frame and of the response buffer (R7). -/
def frameLen : Nat := 4

/-- `LAT` of a command that takes one clock, and of every faulting command (R147).
DESIGN CHOICE (log 9): `LAT` is an open parameter (R8), the model's schedule has the reference values. -/
def latSingle : Nat := 1

/-- `LAT(CRC_BYTE)`: one exclusive-or and eight bit steps (R78, R147). -/
def latCrcByte : Nat := 9

/-- `LAT(FRM_BUILD)`: one initialisation, twice nine, one store (R90, R147). -/
def latFrmBuild : Nat := 20

/-- `MAX_ATTEMPTS`, the host's (R8, R123). -/
def maxAttempts : Nat := 3

/-- `RETRY_DELAY_MS`, the host's (R8, R124). -/
def retryDelayMs : Nat := 500

end Sys2Proof.Config
end

