-- ==== Sys2Proof/Machine/Crc.lean ====
section
/-! DEFINITION. The pure functions of the spec: the checksum (spec/40_crc_engine.md R64 to R68, R76), the frame
(spec/41_frame_builder.md R81) and the comparison of four bytes (spec/42_comparator.md R91). -/

namespace Sys2Proof.Machine

/-- One bit step: the test is on bit 0 before the shift, the shift is logical (R64). -/
def bitstep (a : Acc) : Acc :=
  if a.getLsbD 0 then (a >>> 1) ^^^ Config.crcPoly else a >>> 1

/-- `n` bit steps. -/
def bitsteps : Nat → Acc → Acc
  | 0, a => a
  | n + 1, a => bitsteps n (bitstep a)

/-- The exclusive-or that begins a byte: only bits 7 to 0 of the accumulator take part (R53, R65). -/
def xorByte (a : Acc) (d : Byte) : Acc := a ^^^ d.setWidth 16

/-- One input byte: the exclusive-or once, then exactly eight bit steps (R65). -/
def absorb (a : Acc) (d : Byte) : Acc := bitsteps Config.bitsPerByte (xorByte a d)

/-- The bytes of a message absorbed in order, element 0 first. -/
def absorbAll (a : Acc) (bytes : List Byte) : Acc := bytes.foldl absorb a

/-- The checksum of a whole message, `0xFFFF` for the empty one (R66, R68). -/
def crc16 (bytes : List Byte) : Acc := absorbAll Config.crcSeed bytes

/-- The low byte `a[7:0]` (R67). -/
def lo (a : Acc) : Byte := a.extractLsb' 0 8

/-- The high byte `a[15:8]` (R67). -/
def hi (a : Acc) : Byte := a.extractLsb' 8 8

/-- The emitted pair, low byte first (R67). -/
def checksum (bytes : List Byte) : List Byte := [lo (crc16 bytes), hi (crc16 bytes)]

/-- One step of the bit-serial form: the feedback is bit 0 of the accumulator against one data bit (R76). -/
def serialStep (a : Acc) (dataBit : Bool) : Acc :=
  if a.getLsbD 0 ^^ dataBit then (a >>> 1) ^^^ Config.crcPoly else a >>> 1

/-- The bit-serial form of taking a byte, least significant bit first (R76). -/
def serial (a : Acc) (d : Byte) : Acc :=
  (List.range 8).foldl (fun acc i => serialStep acc (d.getLsbD i)) a

/-- The four bytes of a group, index 0 first. -/
def quadBytes (q : Quad Byte) : List Byte := [q.b0, q.b1, q.b2, q.b3]

/-- The reset frame for an address (R81). -/
def frameOf (a : Byte) : Quad Byte :=
  let c := crc16 [a, Config.funcReset]
  ⟨a, Config.funcReset, lo c, hi c⟩

/-- Equality of two groups of four bytes, as one bit (R91). -/
def eq4 (f r : Quad Byte) : Bool :=
  f.b0 == r.b0 && f.b1 == r.b1 && f.b2 == r.b2 && f.b3 == r.b3

end Sys2Proof.Machine
end

