-- ==== Sys2Proof/WellFormed.lean ====
section
/-! DEFINITION. Which instructions are well formed. The operands of the nine commands have exactly their encoding's bits,
so each of those is well formed; a wire frame is when its checksum bytes are those of its first two bytes
(spec/30_encoding.md R57). -/

namespace Sys2Proof

/-- `{B3, B2} == crc16([B0, 0x42])` for the wire frame; nothing to check for a command (R53, R57). -/
def Instr.wellFormed : Instr → Bool
  | .nop => true
  | .crcInit => true
  | .crcByte _ => true
  | .crcRd _ => true
  | .frmBuild _ => true
  | .frmRd _ => true
  | .rspClr => true
  | .rspPush _ => true
  | .cmp => true
  | .resetFrame address crcLo crcHi => crcHi ++ crcLo == Machine.crc16 [address, Config.funcReset]

end Sys2Proof
end

