-- ==== Sys2Proof/Decode.lean ====
section
/-! DEFINITION. The decoder and the encoder (spec/30_encoding.md R51 to R58). Decoding is total and looks at nothing but the
word (R56): each of the 4096 command words is one of the nine commands or is refused by name (R55). -/

namespace Sys2Proof

/-- Why a word is no instruction. The first four are the four cases of R55, the last two are the wire's (R57, R58). -/
inductive DecodeReject where
  /-- R55 (a): the opcode is 0x9 to 0xF. -/
  | opcodeNotDefined
  /-- R55 (b): the operand byte of `NOP`, `CRC_INIT`, `RSP_CLR` or `CMP` is not 0. -/
  | operandNotZero
  /-- R55 (c): `CRC_RD` with `data[7:1] != 0`. -/
  | crcRdHighBits
  /-- R55 (d): `FRM_RD` with `data[7:2] != 0`. -/
  | frmRdHighBits
  /-- R57: the second wire byte is not 0x42. -/
  | functionNotReset
  /-- R58: not four bytes. -/
  | wireLength
  deriving DecidableEq, Repr

/-- `i` if the operand byte is 0, the refusal of R55 (b) if not. -/
def withoutOperand (data : Byte) (i : Instr) : Except DecodeReject Instr :=
  if data = 0 then .ok i else .error .operandNotZero

/-- The command a word at the command port stands for (R54 to R56). -/
def decodeCommand (w : CommandWord) : Except DecodeReject Instr :=
  let data := Machine.dataField w
  match (Machine.opField w).toNat with
  | 0 => withoutOperand data .nop
  | 1 => withoutOperand data .crcInit
  | 2 => .ok (.crcByte data)
  | 3 => if Machine.aboveSel data = 0 then .ok (.crcRd (Machine.selField data)) else .error .crcRdHighBits
  | 4 => .ok (.frmBuild data)
  | 5 => if Machine.aboveIndex data = 0 then .ok (.frmRd (Machine.indexField data)) else .error .frmRdHighBits
  | 6 => withoutOperand data .rspClr
  | 7 => .ok (.rspPush data)
  | 8 => withoutOperand data .cmp
  | _ => .error .opcodeNotDefined

/-- The frame a wire word stands for: the row's match and mask, `WF & 0x00FF0000 == 0x00420000` (R57). Whether the checksum
bytes are the frame's own is `Instr.wellFormed`. -/
def decodeWire (w : WireWord) : Except DecodeReject Instr :=
  let q := Machine.wireBytes w
  if q.b1 = Config.funcReset then .ok (.resetFrame q.b0 q.b2 q.b3) else .error .functionNotReset

/-- The instruction something written stands for. -/
def decode : Encoded → Except DecodeReject Instr
  | .command w => decodeCommand w
  | .wire w => decodeWire w

/-- The frame a sequence of wire bytes stands for, the first byte sent at the head (R57, R58: always four). -/
def decodeWireBytes : List Byte → Except DecodeReject Instr
  | [b0, b1, b2, b3] => decodeWire (Machine.wireWord ⟨b0, b1, b2, b3⟩)
  | _ => .error .wireLength

/-- The word of an instruction (R51, R54, R57). -/
def encode : Instr → Encoded
  | .nop => .command (Machine.commandWord 0x0 0x00)
  | .crcInit => .command (Machine.commandWord 0x1 0x00)
  | .crcByte d => .command (Machine.commandWord 0x2 d)
  | .crcRd s => .command (Machine.commandWord 0x3 (s.setWidth 8))
  | .frmBuild a => .command (Machine.commandWord 0x4 a)
  | .frmRd i => .command (Machine.commandWord 0x5 (i.setWidth 8))
  | .rspClr => .command (Machine.commandWord 0x6 0x00)
  | .rspPush d => .command (Machine.commandWord 0x7 d)
  | .cmp => .command (Machine.commandWord 0x8 0x00)
  | .resetFrame address crcLo crcHi => .wire (Machine.wireWord ⟨address, Config.funcReset, crcLo, crcHi⟩)

/-- A row of the opcode map: a word `w` selects it when `w & mask == match` (R54). -/
structure OpcodeRow where
  pattern : CommandWord
  mask : CommandWord
  deriving DecidableEq, Repr

/-- Does a word select a row (R54)? -/
def OpcodeRow.selects (r : OpcodeRow) (w : CommandWord) : Bool := w &&& r.mask == r.pattern

/-- The nine rows of the opcode map, in its order (R54). -/
def opcodeRows : List OpcodeRow :=
  [⟨0x000, 0xFFF⟩, ⟨0x100, 0xFFF⟩, ⟨0x200, 0xF00⟩, ⟨0x300, 0xFFE⟩, ⟨0x400, 0xF00⟩, ⟨0x500, 0xFFC⟩,
   ⟨0x600, 0xFFF⟩, ⟨0x700, 0xF00⟩, ⟨0x800, 0xFFF⟩]

/-- Is a command word legal, that is, no reserved word (R55)? -/
def isLegal (w : CommandWord) : Bool :=
  match decodeCommand w with
  | .ok _ => true
  | .error _ => false

/-- What the host's number `w` of `nbits` bits is written as: up to 16 bits a command word (12 bits in two whole bytes),
more than that a wire word (R51, R57; log 15). -/
def encodedOfNat (nbits w : Nat) : Encoded :=
  if nbits ≤ 16 then .command (BitVec.ofNat 12 w) else .wire (BitVec.ofNat 32 w)

/-- The instruction the decoder reads from the bits `w` of a row of `nbits` bits; no instruction where `w` has bits beyond
the format's 12 or 32. -/
def decodeTableWord (nbits w : Nat) : Option Instr :=
  if w < 2 ^ (if nbits ≤ 16 then 12 else 32) then
    match decode (encodedOfNat nbits w) with
    | .ok i => some i
    | .error _ => none
  else none

end Sys2Proof
end

