-- ==== Sys2Proof/Machine/State.lean ====
section
/-! DEFINITION. The state of PFCRC (spec/10_state.md R13 to R34), the reasons a step can stop, and the state right after a
block reset (R34). Everything is plain data. -/

namespace Sys2Proof.Machine

/-- The completion word `CP[8:0]` of a command: `rsp_err` and `rsp_data` (spec/30_encoding.md R52). -/
structure Completion where
  err : Bool
  data : Byte
  deriving DecidableEq, Repr

/-- One thing the host does to the block or to the wire (spec/00_scope.md R6, spec/20_memory.md R45). -/
inductive HostEvent where
  /-- A command word presented until it is accepted (R29), or four bytes written to the wire (R57). -/
  | word (e : Encoded)
  /-- `rst` asserted for one edge (R133). -/
  | assertRst
  /-- An edge at which the host presents nothing (R46 (d)). -/
  | idle
  deriving DecidableEq, Repr

/-- The whole state of the block: the elements of the table of R13, row by row, and nothing else. -/
structure Block where
  /-- `ACC`, the checksum accumulator (R14). -/
  acc : Acc
  /-- `FRAME[0..3]`, each a byte or the spec's `none` (R11, R15; log 3). -/
  frame : Quad (Option Byte)
  /-- `RESP[0..3]`, each a byte or the spec's `none` (R11, R16; log 3). -/
  resp : Quad (Option Byte)
  /-- `RCNT`, the valid bytes of `RESP`, 0 to 4 (R17). -/
  rcnt : BitVec 3
  /-- `FVALID` (R18). -/
  fvalid : Bool
  /-- `MVALID` (R19). -/
  mvalid : Bool
  /-- `MATCH` (R19). -/
  matched : Bool
  /-- `ERR`, sticky (R20). -/
  err : Bool
  /-- `CAUSE`, the code of the first fault (R20). -/
  cause : BitVec 2
  /-- `BUSY`, 0 between commands (R21). -/
  busy : Bool
  /-- Hidden `BITCNT`: bit steps done for the byte in hand, 0 to 8 (R22; log 6). -/
  bitcnt : BitVec 4
  /-- Hidden `SEQ`: the phase of a command of several phases (R13, R22, R90; log 6). -/
  seq : BitVec 3
  /-- Hidden `OPREG`: the command word being executed (R22). -/
  opreg : CommandWord
  deriving DecidableEq, Repr

/-- The machine: the block with the completion on its output pins (R30, R34), and beside it the host and the line, which are
no state of the block (R6, R35 (c); log 2, 4). -/
structure State extends Block where
  /-- `rsp_valid`, and with it `rsp_err` and `rsp_data`; `none` is `rsp_valid = 0`, when the two are unspecified
  (R30, R34; log 7). -/
  rsp : Option Completion
  /-- What the host will do next, the head first. DESIGN CHOICE: the model's own (log 2). -/
  inputs : List HostEvent
  /-- The bytes sent to the device so far, the first at the head (R35 (c), R40). DESIGN CHOICE: the model's own (log 4). -/
  wire : List Byte
  deriving DecidableEq, Repr

/-- Why a step stops. All three are the model's own, arise only in states that no run from a block reset reaches, and are
safe (log 8). The block's three faults (R105) do not stop it: they are next states. -/
inductive Fault where
  /-- Raised by `FRM_RD` with `FVALID = 1`, and by `CMP` with `FVALID = 1` and `RCNT = 4`, when a byte they need is `none`:
  "reading it is forbidden and the rules never do" (R11). Safe. -/
  | readOfNone
  /-- Raised by `RSP_PUSH` with `RCNT` 5, 6 or 7, values that are "never reached" (R17): there is no `RESP[RCNT]`. Safe. -/
  | respIndexOutOfRange
  /-- Raised by the clock-level sequencer when `BUSY = 1` and `BITCNT`, `SEQ` and `OPREG` hold values the reference schedule
  never gives together (R78, R90). Safe. -/
  | sequencerOffSchedule
  deriving DecidableEq, Repr

/-- Why a step has no meaning to give. -/
inductive Refusal where
  /-- An instruction the model has no meaning for yet; no arm of `exec` raises it now. Safe. -/
  | notModelled (mnemonic : String)
  /-- Raised by a step whose host event writes four bytes to the wire whose second is not 0x42: no instruction of the opcode
  table, the spec describes no other frame (R57, spec/91_not_in_source.md N11; log 5). Safe. -/
  | wireWordNotReset
  deriving DecidableEq, Repr

/-- The state right after a block reset (R34). The fields of R13 and the strobe have the values of R34's table; `inputs`
and `wire` are the model's own (log 17). -/
def State.reset : State where
  acc := 0xFFFF
  frame := ⟨none, none, none, none⟩
  resp := ⟨none, none, none, none⟩
  rcnt := 0
  fvalid := false
  mvalid := false
  matched := false
  err := false
  cause := 0
  busy := false
  bitcnt := 0
  seq := 0
  opreg := 0
  rsp := none
  inputs := []
  wire := []

end Sys2Proof.Machine
end

