-- ==== Sys2Proof/Machine/Ops.lean ====
section
/-! DEFINITION. The shared operations on the state: completing a command (spec/10_state.md R30), taking a fault
(spec/60_exceptions.md R106), the two buffers (spec/20_memory.md R35 to R37), the strobe and block reset
(spec/70_reset_and_hazards.md R133). The block has no return from a fault (R113), so there is no such operation. -/

namespace Sys2Proof.Machine

/-- What an instruction or a step answers. -/
abbrev Result := Host.Outcome State Fault Refusal

/-- Go on from a next state; a stop stays a stop. -/
def andThen (r : Result) (f : State → Result) : Result :=
  match r with
  | .next s => f s
  | .fault e => .fault e
  | .refused e => .refused e

/-- `complete(d)`: the command finishes with completion `err = 0`, `data = d` (R11, R52). -/
def complete (d : Byte) (s : State) : State := { s with rsp := some ⟨false, d⟩ }

/-- The three faults of the block (R105). -/
inductive Cause where
  | illegalCommand
  | respOverflow
  | frameNotBuilt
  deriving DecidableEq, Repr

/-- The code recorded in `CAUSE` (R105). -/
def causeCode : Cause → BitVec 2
  | .illegalCommand => 1
  | .respOverflow => 2
  | .frameNotBuilt => 3

/-- `raise F`: taking a fault. Applied to the state the command found, so every other write of the command is discarded;
`CAUSE` is written only if `ERR` was 0; the completion is `err = 1`, `data = 0x00` (R106). -/
def raise (c : Cause) (s : State) : State :=
  { s with cause := if s.err then s.cause else causeCode c, err := true, rsp := some ⟨true, 0x00⟩ }

/-- Write `ACC`. -/
def setAcc (v : Acc) (s : State) : State := { s with acc := v }

/-- The byte at an index of a buffer, `none` where it holds no value (R11, R35). -/
def quadAt {α : Type} (q : Quad α) (i : BitVec 2) : α :=
  match i.toNat with
  | 0 => q.b0
  | 1 => q.b1
  | 2 => q.b2
  | _ => q.b3

/-- A buffer with the byte at index `n` replaced; no index above 3 exists (R35). -/
def quadPut {α : Type} (q : Quad α) (n : Nat) (v : α) : Quad α :=
  match n with
  | 0 => { q with b0 := v }
  | 1 => { q with b1 := v }
  | 2 => { q with b2 := v }
  | 3 => { q with b3 := v }
  | _ => q

/-- A buffer whose four bytes all hold a value. -/
def quadFull (q : Quad Byte) : Quad (Option Byte) := ⟨some q.b0, some q.b1, some q.b2, some q.b3⟩

/-- A buffer whose four bytes hold no value (R11). -/
def quadNone : Quad (Option Byte) := ⟨none, none, none, none⟩

/-- All four bytes of a buffer, if each holds a value. -/
def quadAll (q : Quad (Option Byte)) : Option (Quad Byte) :=
  match q.b0, q.b1, q.b2, q.b3 with
  | some x0, some x1, some x2, some x3 => some ⟨x0, x1, x2, x3⟩
  | _, _, _, _ => none

/-- All four bytes of `FRAME` written together, `FVALID <- 1` (R15, R18, R82). -/
def storeFrame (q : Quad Byte) (s : State) : State := { s with frame := quadFull q, fvalid := true }

/-- `RCNT <- 0`, and `RESP[0..3]` become `none` (R37, R82, R92). -/
def emptyResp (s : State) : State := { s with resp := quadNone, rcnt := 0 }

/-- `RESP[RCNT] <- d` and then `RCNT <- RCNT + 1` (R37, R93). -/
def pushByte (d : Byte) (s : State) : State :=
  { s with resp := quadPut s.resp s.rcnt.toNat (some d), rcnt := s.rcnt + 1 }

/-- Bytes go on the wire in order, the head first (R40, R57). The block itself does nothing meanwhile, so its strobe is
over (R149). -/
def sendBytes (bytes : List Byte) (s : State) : State := { s with wire := s.wire ++ bytes, rsp := none }

/-- An edge at which no command completes: the strobe is low in the cycle after it, nothing else changes (R46 (d), R149). -/
def dropStrobe (s : State) : State := { s with rsp := none }

/-- Block reset: the reset state of R34 whatever the block was doing (R133, R134); what the host will do next and what it
has sent are not the block's. -/
def blockReset (s : State) : State := { State.reset with inputs := s.inputs, wire := s.wire }

end Sys2Proof.Machine
end

