-- ==== Sys2Proof/Machine/Flags.lean ====
section
/-! DEFINITION. Every flag computation of the spec: the match flags (spec/10_state.md R19, spec/42_comparator.md R94, R99)
and the `STATUS` vector the flags drive (R25). -/

namespace Sys2Proof.Machine

/-- `MVALID <- 0`, `MATCH <- 0`: what the result described has changed (R19, R99). -/
def clearMatch (s : State) : State := { s with mvalid := false, matched := false }

/-- `MATCH <- m`, `MVALID <- 1`: the result of a comparison (R94). -/
def setMatch (m : Bool) (s : State) : State := { s with mvalid := true, matched := m }

/-- `zext_8(MATCH)`, the completion byte of `CMP` (R52). -/
def matchByte (m : Bool) : Byte := (BitVec.ofBool m).setWidth 8

/-- The 10-bit read-only vector `STATUS`: `CAUSE` in bits 9:8, `ERR` 7, `RCNT` 6:4, `MVALID` 3, `MATCH` 2, `FVALID` 1,
`BUSY` 0 (R25). -/
def statusWord (s : State) : BitVec 10 :=
  s.cause ++ BitVec.ofBool s.err ++ s.rcnt ++ BitVec.ofBool s.mvalid ++ BitVec.ofBool s.matched ++
    BitVec.ofBool s.fvalid ++ BitVec.ofBool s.busy

/-- The completion word as the 9 bits `CP[8:0] = {err, data}` (R52). -/
def completionWord (c : Completion) : BitVec 9 := BitVec.ofBool c.err ++ c.data

end Sys2Proof.Machine
end

