-- ==== Sys2Proof/Machine/Builder.lean ====
section
/-! DEFINITION. The frame builder's commands and the wire frame (spec/41_frame_builder.md R82, R84, R85). -/

namespace Sys2Proof.Machine

/-- The writes of `FRM_BUILD` other than `ACC`'s: the frame and `FVALID`, the emptied response, the cleared match (R82). -/
def storeBuilt (q : Quad Byte) (s : State) : State := clearMatch (emptyResp (storeFrame q s))

/-- `FRM_BUILD a`: the checksum is computed from `0xFFFF`, not from the `ACC` found, and is left in `ACC` (R82). -/
def execFrmBuild (a : Byte) (s : State) : Result :=
  .next (complete 0x00 (storeBuilt (frameOf a) (setAcc (crc16 [a, Config.funcReset]) s)))

/-- `FRM_RD i`: `FrameNotBuilt` while `FVALID = 0`, else byte `i`; no state is written (R84). -/
def execFrmRd (i : BitVec 2) (s : State) : Result :=
  if s.fvalid then
    match quadAt s.frame i with
    | some b => .next (complete b s)
    | none => .fault .readOfNone
  else .next (raise .frameNotBuilt s)

/-- `RESET`, the wire frame: the host sends the four bytes in order, the block adds nothing and does nothing (R85). Whether
they are a frame (`Instr.wellFormed`) nobody here checks, and what the device does is in no source (N15). DESIGN CHOICE
(log 4, 5). -/
def execResetFrame (address crcLo crcHi : Byte) (s : State) : Result :=
  .next (sendBytes [address, Config.funcReset, crcLo, crcHi] s)

end Sys2Proof.Machine
end

