-- ==== Sys2Proof/Machine/Comparator.lean ====
section
/-! DEFINITION. The response buffer's and the comparator's commands (spec/42_comparator.md R92 to R94). -/

namespace Sys2Proof.Machine

/-- `RSP_CLR`: the response buffer emptied, the match flags cleared (R92). -/
def execRspClr (s : State) : Result := .next (complete 0x00 (clearMatch (emptyResp s)))

/-- `RSP_PUSH d`: `RespOverflow` when four bytes are held, else the byte is appended and the match flags cleared (R93). -/
def execRspPush (d : Byte) (s : State) : Result :=
  if s.rcnt = 4 then .next (raise .respOverflow s)
  else if s.rcnt < 4 then .next (complete 0x00 (clearMatch (pushByte d s)))
  else .fault .respIndexOutOfRange

/-- The comparison of two full buffers (R91); a byte that holds no value may not be read (R11). -/
def compareFull (s : State) : Result :=
  match quadAll s.frame, quadAll s.resp with
  | some f, some r => .next (complete (matchByte (eq4 f r)) (setMatch (eq4 f r) s))
  | _, _ => .fault .readOfNone

/-- `CMP`: `FrameNotBuilt` while `FVALID = 0`; no match on fewer than four bytes (R95), else `eq4` (R94). -/
def execCmp (s : State) : Result :=
  if s.fvalid then
    if s.rcnt = 4 then compareFull s else .next (complete (matchByte false) (setMatch false s))
  else .next (raise .frameNotBuilt s)

end Sys2Proof.Machine
end

