-- ==== Sys2Proof/Machine/Control.lean ====
section
/-! DEFINITION. The control family: `NOP` (spec/43_control.md R101). -/

namespace Sys2Proof.Machine

/-- `NOP`: no state written but the completion (R101). -/
def execNop (s : State) : Result := .next (complete 0x00 s)

end Sys2Proof.Machine
end

