-- ==== Sys2Proof/Machine/Engine.lean ====
section
/-! DEFINITION. The checksum engine's commands (spec/40_crc_engine.md R71 to R73). No state makes one of them fault (R69). -/

namespace Sys2Proof.Machine

/-- `CRC_INIT`: `ACC <- 0xFFFF` (R71). -/
def execCrcInit (s : State) : Result := .next (complete 0x00 (setAcc Config.crcSeed s))

/-- `CRC_BYTE d`: `ACC <- absorb(ACC, d)`, whatever `ACC` holds (R72). -/
def execCrcByte (d : Byte) (s : State) : Result := .next (complete 0x00 (setAcc (absorb s.acc d) s))

/-- `CRC_RD s`: the low byte of `ACC` for 0, the high byte for 1; no state is written (R73). -/
def execCrcRd (sel : BitVec 1) (s : State) : Result :=
  .next (complete (if sel = 0 then lo s.acc else hi s.acc) s)

end Sys2Proof.Machine
end

