-- ==== Sys2Proof/Machine/Dispatch.lean ====
section
/-! DEFINITION. The meaning of each instruction, one arm per constructor of `Instr`. -/

namespace Sys2Proof.Machine

/-- One accepted command executed to its completion, or one frame sent (spec/30_encoding.md R56). -/
def exec (i : Instr) (s : State) : Host.Outcome State Fault Refusal :=
  match i with
  | .nop => Sys2Proof.Machine.execNop s
  | .crcInit => Sys2Proof.Machine.execCrcInit s
  | .crcByte d => Sys2Proof.Machine.execCrcByte d s
  | .crcRd sel => Sys2Proof.Machine.execCrcRd sel s
  | .frmBuild a => Sys2Proof.Machine.execFrmBuild a s
  | .frmRd idx => Sys2Proof.Machine.execFrmRd idx s
  | .rspClr => Sys2Proof.Machine.execRspClr s
  | .rspPush d => Sys2Proof.Machine.execRspPush d s
  | .cmp => Sys2Proof.Machine.execCmp s
  | .resetFrame address crcLo crcHi => Sys2Proof.Machine.execResetFrame address crcLo crcHi s

end Sys2Proof.Machine
end

