-- ==== Sys2Proof/Machine/Fetch.lean ====
section
/-! DEFINITION. What the host hands over next and what it does (spec/00_scope.md R6, spec/20_memory.md R45). The block fetches
no instructions (R24, R48): a command word comes from the command port and is decoded here (spec/30_encoding.md R56). -/

namespace Sys2Proof.Machine

/-- One accepted command word executed to its completion: a reserved word is the fault `IllegalCommand` (R55, R56). -/
def runCommand (w : CommandWord) (s : State) : Result :=
  match decodeCommand w with
  | .ok i => exec i s
  | .error _ => .next (raise .illegalCommand s)

/-- Four bytes written to the wire by the host (R57). -/
def runWire (w : WireWord) (s : State) : Result :=
  match decodeWire w with
  | .ok i => exec i s
  | .error _ => .refused .wireWordNotReset

/-- One event of the host. -/
def takeEvent (e : HostEvent) (s : State) : Result :=
  match e with
  | .word (.command w) => runCommand w s
  | .word (.wire w) => runWire w s
  | .assertRst => .next (blockReset s)
  | .idle => .next (dropStrobe s)

end Sys2Proof.Machine
end

