-- ==== Sys2Proof/Machine/Sequencer.lean ====
section
/-! DEFINITION. The reference implementation clock by clock (spec/40_crc_engine.md R78, spec/41_frame_builder.md R90,
spec/70_reset_and_hazards.md R133 to R135, R147, R149, spec/10_state.md R27 to R31). No command rule depends on it (R145); it
gives `BUSY` and the hidden registers their life, and that it computes what `exec` says is a statement of the model. -/

namespace Sys2Proof.Machine

/-- The input pins as sampled at one rising edge of `clk` (R27, R28). -/
structure Inputs where
  rst : Bool
  cmdValid : Bool
  cmdOp : BitVec 4
  cmdData : Byte
  deriving DecidableEq, Repr

/-- The output pins in one clock cycle (R27). -/
structure Outputs where
  cmdReady : Bool
  rspValid : Bool
  rspErr : Bool
  rspData : Byte
  status : BitVec 10
  deriving DecidableEq, Repr

/-- The output pins of a state, `cmd_ready = not BUSY and not rst` (R27). `rsp_err` and `rsp_data` are unspecified while
`rsp_valid = 0`: they are then `unspec`, an argument, so a statement about the pins is for every value (U9; log 7). -/
def outputs (rst : Bool) (unspec : Completion) (s : State) : Outputs where
  cmdReady := !s.busy && !rst
  rspValid := s.rsp.isSome
  rspErr := (s.rsp.getD unspec).err
  rspData := (s.rsp.getD unspec).data
  status := statusWord s

/-- The accepting edge, edge 0 of R78 and R90: `OPREG <- CW`, `BUSY <- 1`, `BITCNT <- 0`, and `SEQ <- 1` for `FRM_BUILD`. -/
def accept (w : CommandWord) (s : State) : State :=
  { s with opreg := w, busy := true, bitcnt := 0, seq := if opField w = 4 then 1 else 0, rsp := none }

/-- The sequencer part of a completing edge: `BUSY <- 0`, and the hidden registers are 0 whenever `BUSY = 0` (R22, R30). -/
def release (s : State) : State :=
  { s with busy := false, bitcnt := 0, seq := 0, opreg := 0 }

/-- The first edge of a byte: it is exclusive-ored in, and none of its bit steps is done (R78, R90). -/
def xorEdge (d : Byte) (s : State) : State := { s with acc := xorByte s.acc d, bitcnt := 0 }

/-- One of the eight edges that follow: a bit step, counted (R78, R90). -/
def bitEdge (s : State) : State := { s with acc := bitstep s.acc, bitcnt := s.bitcnt + 1 }

/-- The command goes on to its next phase (R90). -/
def enterPhase (n : BitVec 3) (s : State) : State := { s with seq := n }

/-- One edge of a phase of `FRM_BUILD` that absorbs a byte (R90). With `BITCNT = 8` no bit step is left of the byte before,
and this byte is exclusive-ored in; its eighth bit step is the last edge of the phase. DESIGN CHOICE (log 6). -/
def absorbPhase (d : Byte) (next : BitVec 3) (s : State) : Result :=
  if s.bitcnt = 8 then .next (xorEdge d s)
  else if s.bitcnt = 7 then .next (enterPhase next (bitEdge s))
  else if s.bitcnt < 7 then .next (bitEdge s)
  else .fault .sequencerOffSchedule

/-- The edge of a command that takes one clock: all its writes and its completion at once (R147). -/
def oneEdge (i : Instr) (s : State) : Result := andThen (exec i s) fun t => .next (release t)

/-- One edge of `CRC_BYTE` after acceptance, edges 1 to 9 (R78): the exclusive-or with `SEQ = 0`, then the bit steps with
`SEQ = 1`, the eighth of which completes it. DESIGN CHOICE (log 6). -/
def crcByteEdge (d : Byte) (s : State) : Result :=
  match s.seq.toNat with
  | 0 => .next (enterPhase 1 (xorEdge d s))
  | 1 =>
    if s.bitcnt = 7 then .next (release (complete 0x00 (bitEdge s)))
    else if s.bitcnt < 7 then .next (bitEdge s)
    else .fault .sequencerOffSchedule
  | _ => .fault .sequencerOffSchedule

/-- Edge 1 of `FRM_BUILD`: `ACC <- 0xFFFF`, and no bit step is left to do before the first byte (R90). DESIGN CHOICE (log 6). -/
def seedEdge (s : State) : State := { setAcc Config.crcSeed s with bitcnt := 8 }

/-- One edge of `FRM_BUILD` after acceptance, edges 1 to 20 by the phase in `SEQ` (R90). -/
def frmBuildEdge (a : Byte) (s : State) : Result :=
  match s.seq.toNat with
  | 1 => .next (enterPhase 2 (seedEdge s))
  | 2 => absorbPhase a 3 s
  | 3 => absorbPhase Config.funcReset 4 s
  | 4 => .next (release (complete 0x00 (storeBuilt ⟨a, Config.funcReset, lo s.acc, hi s.acc⟩ s)))
  | _ => .fault .sequencerOffSchedule

/-- One edge of the command in hand. A reserved word completes with its fault in one clock (R147). -/
def advance (s : State) : Result :=
  match decodeCommand s.opreg with
  | .error _ => .next (release (raise .illegalCommand s))
  | .ok .nop => oneEdge .nop s
  | .ok .crcInit => oneEdge .crcInit s
  | .ok (.crcByte d) => crcByteEdge d s
  | .ok (.crcRd sel) => oneEdge (.crcRd sel) s
  | .ok (.frmBuild a) => frmBuildEdge a s
  | .ok (.frmRd i) => oneEdge (.frmRd i) s
  | .ok .rspClr => oneEdge .rspClr s
  | .ok (.rspPush d) => oneEdge (.rspPush d) s
  | .ok .cmp => oneEdge .cmp s
  | .ok (.resetFrame _ _ _) => .fault .sequencerOffSchedule

/-- One rising edge of `clk`: reset has priority over everything (R133), a busy block ignores the command port (R29), and an
idle one accepts what is presented or keeps its state (R46 (d)). The strobe of the cycle before is over (R149). -/
def edge (p : Inputs) (s : State) : Result :=
  if p.rst then .next (blockReset s)
  else if s.busy then advance (dropStrobe s)
  else if p.cmdValid then .next (accept (commandWord p.cmdOp p.cmdData) s)
  else .next (dropStrobe s)

/-- The edges of a list of input samples, in order. -/
def edges : List Inputs → State → Result
  | [], s => .next s
  | p :: ps, s => andThen (edge p s) (edges ps)

/-- The command in hand run to its completing edge, within `n` edges (R146). -/
def drain : Nat → State → Result
  | 0, _ => .fault .sequencerOffSchedule
  | n + 1, s => andThen (advance (dropStrobe s)) fun t => if t.busy then drain n t else .next t

/-- `LAT` of an accepted command word: clocks from the accepting to the completing edge (R147). -/
def latency (w : CommandWord) : Nat :=
  match decodeCommand w with
  | .error _ => Config.latSingle
  | .ok .nop => Config.latSingle
  | .ok .crcInit => Config.latSingle
  | .ok (.crcByte _) => Config.latCrcByte
  | .ok (.crcRd _) => Config.latSingle
  | .ok (.frmBuild _) => Config.latFrmBuild
  | .ok (.frmRd _) => Config.latSingle
  | .ok .rspClr => Config.latSingle
  | .ok (.rspPush _) => Config.latSingle
  | .ok .cmp => Config.latSingle
  | .ok (.resetFrame _ _ _) => Config.latSingle

end Sys2Proof.Machine
end

