-- ==== Sys2Proof/Machine/Step.lean ====
section
/-! DEFINITION. One step of the machine: the normative level is the command (spec/00_scope.md R9), so a step is one event of
the host taken to its end (log 1). -/

namespace Sys2Proof.Machine

/-- Between commands the host's next event is taken (R45); with none the block idles (R46 (d)). A state inside a command
(`BUSY = 1`, which only the clock-level functions leave) first completes it (R146; log 11). -/
def step (s : State) : Host.Outcome State Fault Refusal :=
  if s.busy then drain Config.latFrmBuild s
  else
    match s.inputs with
    | [] => .next (dropStrobe s)
    | e :: rest => takeEvent e { s with inputs := rest }

/-- `s` with the instruction whose bits are `w` as the host's next event, ahead of what the host will do anyway; the block is
between commands, so that the very next step takes it (log 15). -/
def State.withFetchWord (s : State) (nbits w : Nat) : State :=
  { release s with inputs := .word (encodedOfNat nbits w) :: s.inputs }

end Sys2Proof.Machine
end

