-- ==== Sys2Proof/Machine/Pseudo.lean ====
section
/-! DEFINITION. Sequences of commands (spec/20_memory.md R45), the pseudo-commands (spec/30_encoding.md R60 to R62) and the
assembler syntax (R59). Nothing here adds a meaning: a line stands for command words. -/

namespace Sys2Proof.Machine

/-- The state after a sequence: the left fold of `exec` (R45). -/
def runAll : List Instr → State → Result
  | [], s => .next s
  | i :: is, s => andThen (exec i s) (runAll is)

/-- The same for command words as the host presents them, reserved ones among them (R45, R56). -/
def runWords : List CommandWord → State → Result
  | [], s => .next s
  | w :: ws, s => andThen (runCommand w s) (runWords ws)

/-- The state after a sequence of the host's events, resets among them (R45, R133). -/
def runEvents : List HostEvent → State → Result
  | [], s => .next s
  | e :: es, s => andThen (takeEvent e s) (runEvents es)

/-- A sequence run with the completions it gave, in order; a command whose completion is `err = 1` does not end it (R111). -/
def gather : List Instr → State → Host.Outcome (State × List Completion) Fault Refusal
  | [], s => .next (s, [])
  | i :: is, s =>
    match exec i s with
    | .next t =>
      match gather is t with
      | .next (u, cs) => .next (u, t.rsp.toList ++ cs)
      | .fault e => .fault e
      | .refused e => .refused e
    | .fault e => .fault e
    | .refused e => .refused e

/-- `CRC_OUT`: the low byte, then the high byte (R60). -/
def crcOut : List Instr := [.crcRd 0, .crcRd 1]

/-- `FRM_SEND`: the four bytes of the frame in order (R61). -/
def frmSend : List Instr := [.frmRd 0, .frmRd 1, .frmRd 2, .frmRd 3]

/-- `CRC_MSG b0, ..., bn-1` (R62). -/
def crcMsg (bytes : List Byte) : List Instr := .crcInit :: bytes.map .crcByte

/-- `RSP_LOAD r0, ..., rk-1` (R62). -/
def rspLoad (bytes : List Byte) : List Instr := .rspClr :: bytes.map .rspPush

/-- Why a line of a program is no line of R59. -/
inductive AsmReject where
  /-- The first word of the line is no mnemonic and no pseudo-command. -/
  | unknownMnemonic
  /-- An operand is no number of R10. -/
  | badNumber
  /-- An operand does not fit its field (R53). -/
  | operandRange
  /-- Too many or too few operands. -/
  | operandCount
  deriving DecidableEq, Repr

/-- The value of a digit, hexadecimal digits in either case. DESIGN CHOICE (log 16). -/
def digitValue (c : Char) : Option Nat :=
  if '0' ≤ c ∧ c ≤ '9' then some (c.toNat - 48)
  else if 'a' ≤ c ∧ c ≤ 'f' then some (c.toNat - 87)
  else if 'A' ≤ c ∧ c ≤ 'F' then some (c.toNat - 55)
  else none

/-- Digits of a base, the most significant first, after the value `acc` of those before them. -/
def digitsValue (base : Nat) : List Char → Nat → Option Nat
  | [], acc => some acc
  | c :: cs, acc =>
    match digitValue c with
    | some v => if v < base then digitsValue base cs (acc * base + v) else none
    | none => none

/-- A number of R10: `0x` hexadecimal, `0b` binary, else decimal. R10 does not say whether underscores may group the digits,
as R64 writes a constant: a number with one is rejected. DESIGN CHOICE (log 16). -/
def numberValue : List Char → Option Nat
  | [] => none
  | ['0', 'x'] => none
  | ['0', 'b'] => none
  | '0' :: 'x' :: cs => digitsValue 16 cs 0
  | '0' :: 'b' :: cs => digitsValue 2 cs 0
  | cs => digitsValue 10 cs 0

/-- All the numbers of a line, or none if one is no number. -/
def numberValues : List (List Char) → Option (List Nat)
  | [] => some []
  | w :: ws =>
    match numberValue w, numberValues ws with
    | some v, some vs => some (v :: vs)
    | _, _ => none

/-- The words of a line, separated by any number of spaces, tabs and commas (R59, R62); `word` is the word being read,
reversed. DESIGN CHOICE (log 16). -/
def splitWords : List Char → List Char → List (List Char)
  | [], word => if word.isEmpty then [] else [word.reverse]
  | c :: cs, word =>
    if c = ' ' ∨ c = ',' ∨ c = '\t' then
      if word.isEmpty then splitWords cs [] else word.reverse :: splitWords cs []
    else splitWords cs (c :: word)

/-- A number as an operand of `width` bits. R59 does not say what a line stands for whose number does not fit its field: the
line is rejected, and no reserved word is made of it. DESIGN CHOICE (log 16). -/
def asOperand (width v : Nat) : Except AsmReject (BitVec width) :=
  if v < 2 ^ width then .ok (BitVec.ofNat width v) else .error .operandRange

/-- Numbers as operand bytes. -/
def asBytes : List Nat → Except AsmReject (List Byte)
  | [] => .ok []
  | v :: vs => do
    let b ← asOperand 8 v
    let bs ← asBytes vs
    .ok (b :: bs)

/-- The one operand of a command. -/
def oneOperand (width : Nat) (f : BitVec width → Instr) : List Nat → Except AsmReject (List Instr)
  | [v] => do
    let x ← asOperand width v
    .ok [f x]
  | _ => .error .operandCount

/-- A command or a pseudo-command without operands. -/
def noOperand (is : List Instr) : List Nat → Except AsmReject (List Instr)
  | [] => .ok is
  | _ => .error .operandCount

/-- `RSP_LOAD` takes at most four bytes (R62). -/
def loadOperands (vs : List Nat) : Except AsmReject (List Instr) :=
  if vs.length ≤ Config.frameLen then do
    let bs ← asBytes vs
    .ok (rspLoad bs)
  else .error .operandCount

/-- The commands a mnemonic with its operands stands for (R59 to R62). -/
def assembleWords (mnemonic : String) (operands : List Nat) : Except AsmReject (List Instr) :=
  match mnemonic with
  | "NOP" => noOperand [.nop] operands
  | "CRC_INIT" => noOperand [.crcInit] operands
  | "CRC_BYTE" => oneOperand 8 .crcByte operands
  | "CRC_RD" => oneOperand 1 .crcRd operands
  | "FRM_BUILD" => oneOperand 8 .frmBuild operands
  | "FRM_RD" => oneOperand 2 .frmRd operands
  | "RSP_CLR" => noOperand [.rspClr] operands
  | "RSP_PUSH" => oneOperand 8 .rspPush operands
  | "CMP" => noOperand [.cmp] operands
  | "CRC_OUT" => noOperand crcOut operands
  | "FRM_SEND" => noOperand frmSend operands
  | "CRC_MSG" => do
    let bs ← asBytes operands
    .ok (crcMsg bs)
  | "RSP_LOAD" => loadOperands operands
  | _ => .error .unknownMnemonic

/-- One line: a comment runs from `;` to the end (R59). That a line with no command stands for no command is the model's:
DESIGN CHOICE (log 16). -/
def assembleLine (line : List Char) : Except AsmReject (List Instr) :=
  match splitWords (line.takeWhile (· != ';')) [] with
  | [] => .ok []
  | m :: ws =>
    match numberValues ws with
    | some vs => assembleWords (String.ofList m) vs
    | none => .error .badNumber

/-- The lines of a text; `line` is the line being read, reversed. R59 speaks of a list of lines and does not say what ends one:
a line feed does and nothing else, so a carriage return belongs to the word it stands at. DESIGN CHOICE (log 16). -/
def splitLines : List Char → List Char → List (List Char)
  | [], line => [line.reverse]
  | c :: cs, line => if c = '\n' then line.reverse :: splitLines cs [] else splitLines cs (c :: line)

/-- The commands of a list of lines, top to bottom; one rejected line rejects the text. DESIGN CHOICE (log 16). -/
def assembleLines : List (List Char) → Except AsmReject (List Instr)
  | [] => .ok []
  | l :: ls => do
    let is ← assembleLine l
    let rest ← assembleLines ls
    .ok (is ++ rest)

/-- The commands of a program text, one line a command, top to bottom (R59). -/
def assemble (text : String) : Except AsmReject (List Instr) := assembleLines (splitLines text.toList [])

end Sys2Proof.Machine
end

