-- ==== Sys2Proof/Machine/Protocol.lean ====
section
/-! DEFINITION. The host's protocol around the block: the exchange, the retry coordinator, cancellation, the transport session
and the log entries (spec/60_exceptions.md R119 to R128, with the duty R131 (d)). It is outside the block (spec/00_scope.md R5) and no part of `State`
or `step`: a second machine that drives the first with `exec`. The bytes that arrive and the moments of cancellation are
inputs, unconstrained (spec/93_implementation_defined.md U4, U24; log 14). -/

namespace Sys2Proof.Machine

/-- What one bounded blocking read of the transport gives: the bytes that arrived, or a cancellation (R120, R125). -/
inductive ReadResult where
  | bytes (received : List Byte)
  | cancelled
  deriving DecidableEq, Repr

/-- What the environment does to one attempt. -/
structure AttemptEnv where
  /-- Cancellation while waiting before the attempt; nothing is awaited before the first (R124, R125). -/
  cancelInDelay : Bool
  read : ReadResult
  deriving DecidableEq, Repr

/-- The states of the Retry Coordinator (R122). -/
inductive Phase where
  | idle
  | attempting
  | succeeded
  | exhausted
  deriving DecidableEq, Repr

/-- How an operation ends: the boolean outcome, the re-raised cancellation (R125), a transport that could not be opened
(R126), or a fault of the block, which is the host's own programming error (R131 (d)). -/
inductive OpResult where
  | success
  | failure
  | cancellation
  | openFailure
  | hostFault
  deriving DecidableEq, Repr

/-- What the host logs (R128); the text's format is in no source (N21). -/
inductive LogEntry where
  | sent (bytes : List Byte)
  | received (bytes : List Byte)
  | attemptResult (matched : Bool)
  | finalOutcome (result : OpResult)
  deriving DecidableEq, Repr

/-- One reset operation (R119). -/
structure Operation where
  phase : Phase
  /-- Failed attempts so far (R123). -/
  counter : Nat
  /-- Attempts made. -/
  attempts : Nat
  /-- Delays waited in full between attempts, each of `RETRY_DELAY_MS` (R124). -/
  delays : Nat
  /-- Is the serial handle held (R127)? -/
  transportOpen : Bool
  log : List LogEntry
  result : Option OpResult
  /-- The block the host drives. -/
  block : State
  deriving DecidableEq, Repr

/-- The time waited between attempts, in milliseconds (R124). -/
def waitedMs (o : Operation) : Nat := o.delays * Config.retryDelayMs

/-- How an attempt ends. -/
inductive AttemptOutcome where
  /-- The bytes that arrived, and the completion of `CMP` (R121). -/
  | compared (arrived : List Byte) (matched : Bool)
  /-- The read was cancelled (R125). -/
  | cancelled
  /-- The block reported a fault (R131 (d)). -/
  | hostFault
  deriving DecidableEq, Repr

/-- What an exchange answers. -/
structure Exchanged where
  block : State
  sent : List Byte
  outcome : AttemptOutcome
  deriving DecidableEq, Repr

/-- Does the host see a fault, on the `err` pin or in a completion (R131 (d))? -/
def seesFault (s : State) (cs : List Completion) : Bool := s.err || cs.any (·.err)

/-- Commands issued by a host that keeps R131 (d): it goes on from their completions if none shows a fault; else it applies
block reset and trusts nothing of them, and `onFault` says what it then answers. DESIGN CHOICE (log 14). -/
def issueThen {α : Type} (is : List Instr) (s : State) (onFault : State → α)
    (f : State → List Completion → Host.Outcome α Fault Refusal) : Host.Outcome α Fault Refusal :=
  match gather is s with
  | .next (t, cs) => if seesFault t cs then .next (onFault (blockReset t)) else f t cs
  | .fault e => .fault e
  | .refused e => .refused e

/-- One attempt (R120): `FRM_SEND` and its four bytes written to the transport, `RSP_CLR`, one read of at most four bytes
(spec/90_conflicts.md C2), `RSP_PUSH` of each in order, `CMP`; the result is the completion byte of `CMP`. A host cancelled in
the read issues no further command (R125); one that sees a fault ends the attempt with a block reset (R131 (d)). -/
def exchange (read : ReadResult) (s : State) : Host.Outcome Exchanged Fault Refusal :=
  issueThen frmSend s (fun r => ⟨r, [], .hostFault⟩) fun s1 sentCs =>
    let sent := sentCs.map (·.data)
    issueThen [.rspClr] (sendBytes sent s1) (fun r => ⟨r, sent, .hostFault⟩) fun s2 _ =>
      match read with
      | .cancelled => .next ⟨s2, sent, .cancelled⟩
      | .bytes received =>
        let arrived := received.take Config.frameLen
        issueThen (arrived.map .rspPush ++ [.cmp]) s2 (fun r => ⟨r, sent, .hostFault⟩) fun s3 cs =>
          .next ⟨s3, sent, .compared arrived (cs.getLast? == some ⟨false, 0x01⟩)⟩

/-- The end of an operation: the transport is released on every exit path (R127), the outcome logged (R128). -/
def finish (p : Phase) (r : OpResult) (o : Operation) : Operation :=
  { o with phase := p, transportOpen := false, result := some r, log := o.log ++ [.finalOutcome r] }

/-- A failed attempt: counted, and the third exhausts the bound (R122, R123). -/
def afterFailure (o : Operation) : Operation :=
  let o' := { o with counter := o.counter + 1 }
  if o'.counter = Config.maxAttempts then finish .exhausted .failure o' else o'

/-- The operation after an exchange (R122, R125, R128, R131 (d)). After a cancellation and after a fault the coordinator's
phase stays, as R122 names none. DESIGN CHOICE (log 14). -/
def afterExchange (x : Exchanged) (o : Operation) : Operation :=
  let o1 := { o with block := x.block, attempts := o.attempts + 1, log := o.log ++ [.sent x.sent] }
  match x.outcome with
  | .cancelled => finish o1.phase .cancellation o1
  | .hostFault => finish o1.phase .hostFault o1
  | .compared arrived matched =>
    let o2 := { o1 with log := o1.log ++ [.received arrived, .attemptResult matched] }
    if matched then finish .succeeded .success o2 else afterFailure o2

/-- One cycle of the coordinator in `Attempting`: the delay if an attempt has failed already, then the attempt (R122, R124);
in any other state nothing happens. -/
def attemptCycle (env : AttemptEnv) (o : Operation) : Host.Outcome Operation Fault Refusal :=
  if o.phase = .attempting ∧ o.result = none then
    if 0 < o.counter ∧ env.cancelInDelay then .next (finish o.phase .cancellation o)
    else
      match exchange env.read o.block with
      | .next x => .next (afterExchange x { o with delays := if 0 < o.counter then o.delays + 1 else o.delays })
      | .fault e => .fault e
      | .refused e => .refused e
  else .next o

/-- The cycles of a list of attempts. -/
def attemptCycles : List AttemptEnv → Operation → Host.Outcome Operation Fault Refusal
  | [], o => .next o
  | env :: envs, o =>
    match attemptCycle env o with
    | .next o' => attemptCycles envs o'
    | .fault e => .fault e
    | .refused e => .refused e

/-- An operation before it starts. -/
def newOperation (s : State) : Operation := ⟨.idle, 0, 0, 0, false, [], none, s⟩

/-- The block as a host that keeps R131 (d) starts with it: one whose `err` pin is 1 is reset first. -/
def trusted (s : State) : State := if s.err then blockReset s else s

/-- One reset operation for a device address (R119): `FRM_BUILD` once, the transport opened, attempts under the retry rules;
a transport that cannot be opened ends it with no attempt (R126). Which state of the coordinator that end has, no rule says:
it was not invoked yet, and stays `Idle`. DESIGN CHOICE (log 14). -/
def resetOperation (a : Byte) (opens : Bool) (envs : List AttemptEnv) (s : State) : Host.Outcome Operation Fault Refusal :=
  issueThen [.frmBuild a] (trusted s) (fun r => finish .idle .hostFault (newOperation r)) fun s1 _ =>
    if opens then attemptCycles envs { newOperation s1 with phase := .attempting, transportOpen := true }
    else .next (finish .idle .openFailure (newOperation s1))

end Sys2Proof.Machine
end

