-- ==== Sys2Proof/Machine/Duties.lean ====
section
/-! DEFINITION. The host's duties toward the block (spec/60_exceptions.md R131), for sequences of events and for clock edges.
They are premises a claim may take, no part of `State` or `step`. Where R131 leaves a duty's bounds open they are the
model's: DESIGN CHOICE (log 18). -/

namespace Sys2Proof.Machine

/-- How far the host is with an attempt: its `RSP_CLR` is still to come, has come, or its `CMP` has come too (R131 (e)). -/
inductive AttemptView where
  | notCleared
  | cleared
  | compared
  deriving DecidableEq, Repr

/-- What a host remembers of what it has done to the block. -/
structure HostView where
  /-- A block reset has been applied since power-up (R131 (h)). -/
  wasReset : Bool
  /-- `FRM_BUILD` has been issued since (R131 (c)). -/
  built : Bool
  attempt : AttemptView
  /-- The bytes pushed in this attempt (R131 (f)). -/
  pushed : Nat
  /-- The bytes of the host's own checksum in `ACC`; `none` once a `FRM_BUILD` has overwritten it (R131 (g), R138). -/
  stream : Option (List Byte)
  deriving DecidableEq, Repr

/-- The host has just switched the power on: it owes the block a reset (R131 (h)). -/
def HostView.atPowerUp : HostView := ⟨false, false, .notCleared, 0, none⟩

/-- The host has just applied block reset: `CRC_BYTE` may follow directly (R136). -/
def HostView.afterReset : HostView := ⟨true, false, .notCleared, 0, some []⟩

/-- Does issuing the instruction now keep R131 (c), (e), (f), (g) and (h)? A wire frame is not the block's. -/
def HostView.allows (v : HostView) (i : Instr) : Bool :=
  match i with
  | .nop => v.wasReset
  | .crcInit => v.wasReset
  | .crcByte _ => v.wasReset && v.stream.isSome
  | .crcRd _ => v.wasReset
  | .frmBuild _ => v.wasReset
  | .frmRd _ => v.wasReset && v.built
  | .rspClr => v.wasReset
  | .rspPush _ => v.wasReset && v.attempt == .cleared && decide (v.pushed < Config.frameLen)
  | .cmp => v.wasReset && v.built && v.attempt != .notCleared
  | .resetFrame _ _ _ => true

/-- What the host remembers after issuing the instruction. Reading the frame again after a `CMP` begins the next attempt
(R120). -/
def HostView.after (v : HostView) (i : Instr) : HostView :=
  match i with
  | .nop => v
  | .crcInit => { v with stream := some [] }
  | .crcByte d => { v with stream := v.stream.map (· ++ [d]) }
  | .crcRd _ => v
  | .frmBuild _ => { v with built := true, attempt := .notCleared, stream := none }
  | .frmRd _ => { v with attempt := if v.attempt = .compared then .notCleared else v.attempt }
  | .rspClr => { v with attempt := .cleared, pushed := 0 }
  | .rspPush _ => { v with pushed := v.pushed + 1 }
  | .cmp => { v with attempt := .compared }
  | .resetFrame _ _ _ => v

/-- Does the host's next event keep those duties? A reserved word, and four wire bytes that are no frame, do not. -/
def HostView.allowsEvent (v : HostView) (e : HostEvent) : Bool :=
  match e with
  | .word w =>
    match decode w with
    | .ok i => v.allows i
    | .error _ => false
  | .assertRst => true
  | .idle => true

/-- What the host remembers after an event. -/
def HostView.afterEvent (v : HostView) (e : HostEvent) : HostView :=
  match e with
  | .word w =>
    match decode w with
    | .ok i => v.after i
    | .error _ => v
  | .assertRst => .afterReset
  | .idle => v

/-- The duties R131 (c), (e), (f), (g), (h) over a sequence of events; they look at nothing but what the host itself did. -/
def keepsOrder : HostView → List HostEvent → Bool
  | _, [] => true
  | v, e :: es => v.allowsEvent e && keepsOrder (v.afterEvent e) es

/-- May the event come while the `err` pin is 1? Only block reset, and waiting (R131 (d)). -/
def mendsFault : HostEvent → Bool
  | .word _ => false
  | .assertRst => true
  | .idle => true

/-- The duty R131 (d) over a run: with `ERR = 1` no word before a block reset. -/
def heedsErr : List HostEvent → State → Bool
  | [], _ => true
  | e :: es, s =>
    (!s.err || mendsFault e) &&
      match takeEvent e s with
      | .next t => heedsErr es t
      | .fault _ => true
      | .refused _ => true

/-- The duties R131 (c) to (h) over a run. -/
def dutiesKept (v : HostView) (es : List HostEvent) (s : State) : Bool := keepsOrder v es && heedsErr es s

/-- What the host remembers is true of the block: a frame it built is valid, no more bytes are held than it pushed, and `ACC`
is the checksum of its own bytes. -/
abbrev viewHolds (v : HostView) (s : State) : Prop :=
  (v.built = true → s.fvalid = true) ∧ (v.attempt = .cleared → s.rcnt.toNat ≤ v.pushed) ∧
    ∀ m, v.stream = some m → s.acc = crc16 m

/-- The word the host must go on presenting after an edge: the one it presented and the block did not take (R29, R131 (a)). -/
def stillWaiting (p : Inputs) (s : State) : Option CommandWord :=
  if p.cmdValid && s.busy && !p.rst then some (commandWord p.cmdOp p.cmdData) else none

/-- The duty R131 (a) over clock edges: a word not yet taken is presented unchanged at the next edge. The host may assert
`rst` at any time (R132), and owes nothing of what it presented before (log 18). -/
def holdsWord : Option CommandWord → List Inputs → State → Bool
  | _, [], _ => true
  | waiting, p :: ps, s =>
    (p.rst || waiting.all fun w => p.cmdValid && commandWord p.cmdOp p.cmdData == w) &&
      match edge p s with
      | .next t => holdsWord (stillWaiting p s) ps t
      | .fault _ => true
      | .refused _ => true

/-- What a host that keeps R131 (b) sees over clock edges: it samples `rsp_err` and `rsp_data` in the cycles with
`rsp_valid = 1` and in no other. -/
def observe (unspec : Completion) : List Inputs → State → Host.Outcome (State × List Completion) Fault Refusal
  | [], s => .next (s, [])
  | p :: ps, s =>
    match edge p s with
    | .next t =>
      match observe unspec ps t with
      | .next (u, cs) =>
        let pins := outputs false unspec t
        .next (u, if pins.rspValid then ⟨pins.rspErr, pins.rspData⟩ :: cs else cs)
      | .fault e => .fault e
      | .refused e => .refused e
    | .fault e => .fault e
    | .refused e => .refused e

end Sys2Proof.Machine
end

