-- ==== Sys2Proof/Safety.lean ====
section
/-! DEFINITION. What counts as a good state (spec/10_state.md R32 with R15, R16, R22), between commands and inside one, and what
counts as a safe step. -/

namespace Sys2Proof.Machine

/-- `FRAME` is a whole built frame exactly when `FVALID = 1`, and holds no value otherwise (R15, R32 (e), R83). -/
abbrev frameOk (s : State) : Prop :=
  (s.fvalid = true → s.frame = quadFull (frameOf (s.frame.b0.getD 0))) ∧ (s.fvalid = false → s.frame = quadNone)

/-- `RCNT <= 4`, and `RESP[i]` holds a value exactly when `i < RCNT` (R16, R17, R32 (a)). -/
abbrev respOk (s : State) : Prop :=
  s.rcnt ≤ 4 ∧ (s.resp.b0.isSome = true ↔ 0 < s.rcnt) ∧ (s.resp.b1.isSome = true ↔ 1 < s.rcnt) ∧
    (s.resp.b2.isSome = true ↔ 2 < s.rcnt) ∧ (s.resp.b3.isSome = true ↔ 3 < s.rcnt)

/-- `MATCH = 1` implies `MVALID = 1`, that `FVALID = 1`, and a match means four bytes equal to the frame's (R32 (b) to (d)). -/
abbrev matchOk (s : State) : Prop :=
  (s.matched = true → s.mvalid = true) ∧ (s.mvalid = true → s.fvalid = true) ∧
    (s.matched = true → s.rcnt = 4 ∧ s.resp = s.frame)

/-- `ERR = 0` if and only if `CAUSE = 0` (R20, R32 (f)). -/
abbrev causeOk (s : State) : Prop := s.err = false ↔ s.cause = 0

/-- Between commands: `BUSY = 0`, and the hidden registers are 0 (R22, R32 (g)). -/
abbrev quiet (s : State) : Prop :=
  s.busy = false ∧ s.bitcnt = 0 ∧ s.seq = 0 ∧ s.opreg = 0

/-- What R32 (a) to (f), R15 and R16 say of the architectural state, between commands and inside one. -/
abbrev archOk (s : State) : Prop := frameOk s ∧ respOk s ∧ matchOk s ∧ causeOk s

/-- The invariant of R32, at the command level. -/
abbrev BlockInv (s : State) : Prop := archOk s ∧ quiet s

/-- While a byte is absorbed into the value `start`: nothing of it done yet (`BITCNT = 8`, log 6), or `BITCNT` bit steps after
the exclusive-or (R90). -/
abbrev absorbing (start : Acc) (d : Byte) (s : State) : Prop :=
  (s.bitcnt = 8 ∧ s.acc = start) ∨ (s.bitcnt < 8 ∧ s.acc = bitsteps s.bitcnt.toNat (xorByte start d))

/-- The phases of `FRM_BUILD` with what `ACC` holds in each (R90). `BITCNT` inside them is the model's: DESIGN CHOICE (log 6). -/
abbrev buildPhase (a : Byte) (s : State) : Prop :=
  match s.seq.toNat with
  | 1 => s.bitcnt = 0
  | 2 => absorbing Config.crcSeed a s
  | 3 => absorbing (absorb Config.crcSeed a) Config.funcReset s
  | 4 => s.bitcnt = 8 ∧ s.acc = crc16 [a, Config.funcReset]
  | _ => False

/-- The hidden registers are where the reference schedule puts them while a command is executing (R78, R90; log 9); a command
of one clock has them at 0 (log 13). `SEQ` inside `CRC_BYTE` is the model's: DESIGN CHOICE (log 6). -/
abbrev onSchedule (s : State) : Prop :=
  match decodeCommand s.opreg with
  | .ok (.crcByte _) => (s.seq = 0 ∧ s.bitcnt = 0) ∨ (s.seq = 1 ∧ s.bitcnt < 8)
  | .ok (.frmBuild a) => buildPhase a s
  | _ => s.bitcnt = 0 ∧ s.seq = 0

/-- The invariant at the clock level: the architectural state as R32 says, the hidden registers 0 or on schedule, and no
strobe while a command is executing (R149). -/
abbrev ClockInv (s : State) : Prop :=
  archOk s ∧ (s.busy = true → onSchedule s ∧ s.rsp = none) ∧ (s.busy = false → quiet s)

/-- An event of the host that the spec gives a meaning: any event but four wire bytes that are no reset frame's (log 5). -/
abbrev meaningful : HostEvent → Prop
  | .word (.wire w) => (wireBytes w).b1 = Config.funcReset
  | .word (.command _) => True
  | .assertRst => True
  | .idle => True

/-- A step is safe when it answers a next state in which no fault has been recorded (R113: `ERR = 0` is a premise of every
claim about a command sequence). -/
abbrev safeStep (s : State) : Prop :=
  match step s with
  | .next t => t.err = false
  | .fault _ => False
  | .refused _ => False

end Sys2Proof.Machine
end

