-- ==== Sys2Proof/Certificates/Slice0/Obligations.lean ====
section
/-! DEFINITION. The statements for the provers, from the numbered rules of spec/. Where a next state is written as a record
update, every field not named is unchanged: that is the instruction's frame. -/

open Sys2Proof Sys2Proof.Machine

/-! ### Encoding (spec/30_encoding.md) -/

/-- Every instruction, with every value of its operands, is decoded from its own word: no bit of an encoding is dropped
(R51, R54, R57). -/
def Obligations.DecodeOfEncode : Prop := ∀ i : Instr, decode (encode i) = .ok i

/-- Each word has at most one meaning, and it is the word's own: encoding what was decoded gives the word back (R54, R56). -/
def Obligations.EncodeOfDecode : Prop := ∀ (e : Encoded) (i : Instr), decode e = .ok i → encode i = e

/-- R55 and R107 word for word: which words are reserved, how many, and what every reserved word does when accepted; the
all-zero word is `NOP`, the all-ones word reserved. -/
def Obligations.ReservedWordsRaiseIllegalCommand : Prop :=
  (∀ w : CommandWord,
    ((∃ r, decodeCommand w = .error r) ↔
        9 ≤ (w.extractLsb' 8 4).toNat ∨
          (w.extractLsb' 8 4 = 0 ∨ w.extractLsb' 8 4 = 1 ∨ w.extractLsb' 8 4 = 6 ∨ w.extractLsb' 8 4 = 8) ∧
              w.extractLsb' 0 8 ≠ (0 : BitVec 8) ∨
            w.extractLsb' 8 4 = 3 ∧ w.extractLsb' 1 7 ≠ (0 : BitVec 7) ∨
              w.extractLsb' 8 4 = 5 ∧ w.extractLsb' 2 6 ≠ (0 : BitVec 6)) ∧
      ∀ s : State, (∃ r, decodeCommand w = .error r) →
        runCommand w s =
          .next { s with cause := if s.err then s.cause else 1, err := true, rsp := some ⟨true, 0x00⟩ }) ∧
    ((List.range 4096).filter fun n => !isLegal (BitVec.ofNat 12 n)).length = 3318 ∧
      decodeCommand 0x000 = .ok .nop ∧ isLegal 0xFFF = false

/-- 778 of the 4096 command words are legal (R54). -/
def Obligations.LegalWordsCounted : Prop :=
  ((List.range 4096).filter fun n => isLegal (BitVec.ofNat 12 n)).length = 778

/-- The opcode map of R54: no word selects two rows, and a word is legal exactly when it selects one. -/
def Obligations.OpcodeRowsDisjointAndComplete : Prop :=
  ∀ w : CommandWord,
    (opcodeRows.filter fun r => r.selects w).length ≤ 1 ∧ isLegal w = opcodeRows.any fun r => r.selects w

/-- The well-formed wire frames are the words with function byte 0x42 and the checksum of their first two bytes, one for each
address (R57). -/
def Obligations.WireFramesAreOnePerAddress : Prop :=
  ∀ w : WireWord,
    ((∃ i, decodeWire w = .ok i ∧ i.wellFormed = true) ↔
        w &&& 0x00FF0000 = 0x00420000 ∧
          w.extractLsb' 0 8 ++ w.extractLsb' 8 8 = crc16 [w.extractLsb' 24 8, 0x42]) ∧
      ((∃ i, decodeWire w = .ok i ∧ i.wellFormed = true) ↔ ∃ a : Byte, w = wireWord (frameOf a)) ∧
        ∀ a : Byte, (wireWord (frameOf a)).extractLsb' 24 8 = a

/-- Words written out from the encodings of R54 and R57 decode to what the spec's table of single words says. -/
def Obligations.SampleWordsDecode : Prop :=
  decodeCommand 0x000 = .ok .nop ∧ decodeCommand 0x100 = .ok .crcInit ∧ decodeCommand 0x242 = .ok (.crcByte 0x42) ∧
    decodeCommand 0x301 = .ok (.crcRd 1) ∧ decodeCommand 0x4F8 = .ok (.frmBuild 0xF8) ∧
      decodeCommand 0x502 = .ok (.frmRd 2) ∧ decodeCommand 0x600 = .ok .rspClr ∧
        decodeCommand 0x711 = .ok (.rspPush 0x11) ∧ decodeCommand 0x800 = .ok .cmp ∧
          decodeWire 0x01428011 = .ok (.resetFrame 0x01 0x80 0x11) ∧ isLegal 0x0FF = false ∧ isLegal 0xFFF = false

/-! ### The machine -/

/-- When the host's next event is a word that decodes, a step between commands takes it off the list and is `exec` of the
instruction (R45, R56). -/
def Obligations.StepRunsDecodedInstruction : Prop :=
  ∀ (s : State) (e : Encoded) (rest : List HostEvent) (i : Instr),
    s.busy = false → s.inputs = .word e :: rest → decode e = .ok i → step s = exec i { s with inputs := rest }

/-- A reserved word at the command port is a step too: the fault and nothing else (R55, R106). -/
def Obligations.StepFaultsOnReservedWord : Prop :=
  ∀ (s : State) (w : CommandWord) (rest : List HostEvent) (r : DecodeReject),
    s.busy = false → s.inputs = .word (.command w) :: rest → decodeCommand w = .error r →
      step s = .next { s with
        inputs := rest, cause := if s.err then s.cause else 1, err := true, rsp := some ⟨true, 0x00⟩ }

/-- With no event, or an idle one, a step between commands changes nothing but the strobe of the cycle before; so does a clock
edge with nothing presented (R46 (d), R149). -/
def Obligations.IdleBlockKeepsItsState : Prop :=
  ∀ s : State, s.busy = false →
    (s.inputs = [] → step s = .next { s with rsp := none }) ∧
      (∀ rest, s.inputs = .idle :: rest → step s = .next { s with inputs := rest, rsp := none }) ∧
        ∀ p : Inputs, p.rst = false → p.cmdValid = false → edge p s = .next { s with rsp := none }

/-- What a block reset leaves (R34). -/
def Obligations.ResetLeavesResetValues : Prop :=
  State.reset.acc = 0xFFFF ∧ State.reset.frame = ⟨none, none, none, none⟩ ∧
    State.reset.resp = ⟨none, none, none, none⟩ ∧ State.reset.rcnt = 0 ∧ State.reset.fvalid = false ∧
      State.reset.mvalid = false ∧ State.reset.matched = false ∧ State.reset.err = false ∧ State.reset.cause = 0 ∧
        State.reset.busy = false ∧ State.reset.bitcnt = 0 ∧ State.reset.seq = 0 ∧ State.reset.opreg = 0 ∧
          State.reset.rsp = none

/-- `rst` at an edge gives the reset state from ANY state, inside a command too, whatever the other pins are; no command is
accepted and no strobe given (R133, R135). That the host's event list and the wire stay is the model's choice (log 17). -/
def Obligations.ResetWinsFromAnyState : Prop :=
  ∀ (p : Inputs) (s : State) (u : Completion), p.rst = true →
    edge p s = .next { State.reset with inputs := s.inputs, wire := s.wire } ∧
      (outputs p.rst u s).cmdReady = false ∧
        ∀ t, edge p s = .next t → t.busy = false ∧ (outputs false u t).rspValid = false ∧ (outputs false u t).cmdReady = true

/-- After reset the block behaves as one that has never run: two blocks, whatever they did, are the same after it (R134). -/
def Obligations.ResetErasesThePast : Prop :=
  ∀ s₁ s₂ : State, s₁.inputs = s₂.inputs → s₁.wire = s₂.wire →
    takeEvent .assertRst s₁ = takeEvent .assertRst s₂ ∧
      ∀ (p : Inputs) (ps : List Inputs), p.rst = true → edges (p :: ps) s₁ = edges (p :: ps) s₂

/-- The reset state meets the invariant of R32, and the one of the clock level (whose clause on the hidden registers inside a
command is the model's, log 6, and says nothing of this state). -/
def Obligations.InvariantAtReset : Prop := BlockInv State.reset ∧ ClockInv State.reset

/-- Every step keeps the invariant of R32 with R15, R16 and R22, whatever the host does. -/
def Obligations.StepKeepsInvariant : Prop := ∀ s t : State, BlockInv s → step s = .next t → BlockInv t

/-- From a state of the clock-level invariant, inside a command or between two, a step answers a next state, which is between
commands and meets R32: the machine's own faults cannot arise (R146; `meaningful` leaves out only a wire word that is no
frame, log 5). Inside a command the premise has the hidden registers on the model's schedule (log 6, 9). -/
def Obligations.StepAlwaysCompletes : Prop :=
  ∀ s : State, ClockInv s → (∀ e rest, s.inputs = e :: rest → meaningful e) → ∃ t, step s = .next t ∧ BlockInv t

/-- Which command may change which element: the column 'written by' of R13, for every instruction and every state. -/
def Obligations.OnlyTheirCommandsWrite : Prop :=
  ∀ (i : Instr) (s t : State), exec i s = .next t →
    (t.acc ≠ s.acc → i = .crcInit ∨ (∃ d, i = .crcByte d) ∨ ∃ a, i = .frmBuild a) ∧
      ((t.frame ≠ s.frame ∨ t.fvalid ≠ s.fvalid) → ∃ a, i = .frmBuild a) ∧
        ((t.resp ≠ s.resp ∨ t.rcnt ≠ s.rcnt) → (∃ d, i = .rspPush d) ∨ i = .rspClr ∨ ∃ a, i = .frmBuild a) ∧
          ((t.mvalid ≠ s.mvalid ∨ t.matched ≠ s.matched) →
              i = .cmp ∨ (∃ d, i = .rspPush d) ∨ i = .rspClr ∨ ∃ a, i = .frmBuild a) ∧
            ((t.err ≠ s.err ∨ t.cause ≠ s.cause) → t.rsp = some ⟨true, 0x00⟩) ∧
              (t.wire ≠ s.wire → ∃ a l h, i = .resetFrame a l h) ∧
                t.busy = s.busy ∧ t.bitcnt = s.bitcnt ∧ t.seq = s.seq ∧ t.opreg = s.opreg ∧
                  t.inputs = s.inputs

/-! ### The checksum functions (spec/40_crc_engine.md) -/

/-- One bit step: the two cases of R64, and its result bit by bit. -/
def Obligations.BitstepBitByBit : Prop :=
  ∀ a : Acc,
    (a.getLsbD 0 = true → bitstep a = (a >>> 1) ^^^ 0xA001) ∧ (a.getLsbD 0 = false → bitstep a = a >>> 1) ∧
      (bitstep a).getLsbD 15 = a.getLsbD 0 ∧ (bitstep a).getLsbD 14 = a.getLsbD 15 ∧
        (bitstep a).getLsbD 13 = (a.getLsbD 14 ^^ a.getLsbD 0) ∧
          (∀ n, 1 ≤ n → n ≤ 12 → (bitstep a).getLsbD n = a.getLsbD (n + 1)) ∧
            (bitstep a).getLsbD 0 = (a.getLsbD 1 ^^ a.getLsbD 0)

/-- One byte: the exclusive-or once, into the low 8 bits only, then exactly eight bit steps (R65). -/
def Obligations.AbsorbIsXorThenEightSteps : Prop :=
  ∀ (a : Acc) (d : Byte),
    absorb a d =
        bitstep (bitstep (bitstep (bitstep (bitstep (bitstep (bitstep (bitstep (a ^^^ d.setWidth 16)))))))) ∧
      (a ^^^ d.setWidth 16).extractLsb' 8 8 = a.extractLsb' 8 8

/-- The checksum of a message (R66), its bytes (R67) and the empty message (R68), with the spec's worked value. -/
def Obligations.ChecksumOfMessage : Prop :=
  crc16 [] = 0xFFFF ∧ (∀ (m : List Byte) (d : Byte), crc16 (m ++ [d]) = absorb (crc16 m) d) ∧
    (∀ m : List Byte, checksum m = [(crc16 m).extractLsb' 0 8, (crc16 m).extractLsb' 8 8]) ∧
      checksum [] = [0xFF, 0xFF] ∧ crc16 [0x01, 0x42] = 0x1180 ∧ checksum [0x01, 0x42] = [0x80, 0x11]

/-- The bit-serial form gives the same value for every accumulator and every byte (R76). -/
def Obligations.SerialFormAgrees : Prop := ∀ (a : Acc) (d : Byte), serial a d = absorb a d

/-- Linearity over exclusive-or (R77 (a)). -/
def Obligations.AbsorbIsLinear : Prop :=
  (∀ x y : Acc, bitstep (x ^^^ y) = bitstep x ^^^ bitstep y) ∧ bitstep 0 = 0 ∧
    (∀ (x y : Acc) (d e : Byte), absorb (x ^^^ y) (d ^^^ e) = absorb x d ^^^ absorb y e) ∧ absorb 0 0 = 0

/-- The zero residue (R77 (b), (c)): a message followed by its own checksum bytes has checksum 0, and so has every frame. -/
def Obligations.MessageWithItsChecksumLeavesZero : Prop :=
  (∀ a : Acc, (absorb a (lo a)).extractLsb' 8 8 = (0 : BitVec 8) ∧ (absorb a (lo a)).extractLsb' 0 8 = hi a) ∧
    (∀ a : Acc, absorb (absorb a (lo a)) (hi a) = 0) ∧ (∀ m : List Byte, crc16 (m ++ checksum m) = 0) ∧
      ∀ a : Byte, crc16 (quadBytes (frameOf a)) = 0

/-! ### The commands -/

/-- `NOP` (R101). -/
def Obligations.NopWritesNothing : Prop :=
  ∀ s : State,
    decodeCommand 0x000 = .ok .nop ∧ exec .nop s = .next { s with rsp := some ⟨false, 0x00⟩ } ∧
      ∀ d : Byte, d ≠ 0 → runCommand (commandWord 0x0 d) s = .next (raise .illegalCommand s)

/-- `CRC_INIT` (R71). -/
def Obligations.CrcInitLoadsSeed : Prop :=
  ∀ s : State,
    decodeCommand 0x100 = .ok .crcInit ∧
      exec .crcInit s = .next { s with acc := 0xFFFF, rsp := some ⟨false, 0x00⟩ } ∧
        ∀ d : Byte, d ≠ 0 → runCommand (commandWord 0x1 d) s = .next (raise .illegalCommand s)

/-- `CRC_BYTE d` (R72): every operand is legal and no state makes it fault. -/
def Obligations.CrcByteAbsorbsOperand : Prop :=
  ∀ (d : Byte) (s : State),
    decodeCommand (0x200 ||| d.setWidth 12) = .ok (.crcByte d) ∧
      exec (.crcByte d) s = .next { s with acc := absorb s.acc d, rsp := some ⟨false, 0x00⟩ }

/-- `CRC_RD s` (R73): 0 reads the low byte, 1 the high byte, nothing else changes. -/
def Obligations.CrcRdReadsOneByte : Prop :=
  ∀ s : State,
    decodeCommand 0x300 = .ok (.crcRd 0) ∧ decodeCommand 0x301 = .ok (.crcRd 1) ∧
      exec (.crcRd 0) s = .next { s with rsp := some ⟨false, s.acc.extractLsb' 0 8⟩ } ∧
        exec (.crcRd 1) s = .next { s with rsp := some ⟨false, s.acc.extractLsb' 8 8⟩ } ∧
          ∀ d : Byte, d.extractLsb' 1 7 ≠ (0 : BitVec 7) →
            runCommand (commandWord 0x3 d) s = .next (raise .illegalCommand s)

/-- Streaming (R74): any sequence of commands without `CRC_INIT` and `FRM_BUILD`, whatever stands between the bytes, takes
exactly its `CRC_BYTE` operands into the checksum, in order; and `CRC_OUT` then reads the emitted pair. -/
def Obligations.StreamedBytesGiveChecksum : Prop :=
  (∀ (is : List Instr) (s t : State), (∀ i ∈ is, i ≠ .crcInit ∧ ∀ a, i ≠ .frmBuild a) → runAll is s = .next t →
      t.acc = absorbAll s.acc (is.filterMap fun i => match i with | .crcByte d => some d | _ => none)) ∧
    (∀ (m : List Byte) (s : State),
      runAll (crcMsg m) s = .next { s with acc := crc16 m, rsp := some ⟨false, 0x00⟩ }) ∧
      ∀ s : State, gather crcOut s =
        .next ({ s with rsp := some ⟨false, hi s.acc⟩ }, [⟨false, lo s.acc⟩, ⟨false, hi s.acc⟩])

/-- The hazard of the shared accumulator (R138): after `FRM_BUILD` a checksum in progress is lost, later bytes continue from
the frame's, and no fault warns of it. -/
def Obligations.FrmBuildReplacesChecksumInProgress : Prop :=
  ∀ (m later : List Byte) (a : Byte) (s : State),
    ∃ t, runAll (crcMsg m ++ .frmBuild a :: later.map .crcByte) s = .next t ∧ t.acc = crc16 (a :: 0x42 :: later) ∧
      t.acc = absorbAll (crc16 [a, 0x42]) later ∧ t.err = s.err ∧ t.cause = s.cause ∧ t.rsp = some ⟨false, 0x00⟩

/-- `FRM_BUILD a` (R82): the value written is the same in every state; the response is emptied, the match withdrawn. -/
def Obligations.FrmBuildWritesFrame : Prop :=
  ∀ (a : Byte) (s : State),
    decodeCommand (0x400 ||| a.setWidth 12) = .ok (.frmBuild a) ∧
      exec (.frmBuild a) s =
        .next { s with
          acc := absorb (absorb 0xFFFF a) 0x42
          frame := ⟨some a, some 0x42, some ((absorb (absorb 0xFFFF a) 0x42).extractLsb' 0 8),
            some ((absorb (absorb 0xFFFF a) 0x42).extractLsb' 8 8)⟩
          fvalid := true
          resp := ⟨none, none, none, none⟩
          rcnt := 0
          mvalid := false
          matched := false
          rsp := some ⟨false, 0x00⟩ }

/-- `FRM_RD i` (R84): byte `i` of a built frame, `FrameNotBuilt` without one, `IllegalCommand` on stray operand bits. -/
def Obligations.FrmRdReadsBuiltFrame : Prop :=
  ∀ (i : BitVec 2) (s : State),
    decodeCommand (0x500 ||| i.setWidth 12) = .ok (.frmRd i) ∧
      (∀ q : Quad Byte, s.fvalid = true → s.frame = quadFull q →
        exec (.frmRd i) s = .next { s with rsp := some ⟨false, (quadBytes q)[i.toNat]!⟩ }) ∧
        (s.fvalid = false → exec (.frmRd i) s = .next (raise .frameNotBuilt s)) ∧
          ∀ d : Byte, d.extractLsb' 2 6 ≠ (0 : BitVec 6) →
            runCommand (commandWord 0x5 d) s = .next (raise .illegalCommand s)

/-- `FRM_SEND` (R61, R85): on a state of the invariant with a built frame, the four completion bytes are the frame, in order,
and as wire bytes they are the well-formed `RESET` frame of its address. -/
def Obligations.FrmSendIsTheWireFrame : Prop :=
  ∀ s : State, BlockInv s → s.fvalid = true →
    ∃ a : Byte, s.frame = quadFull (frameOf a) ∧
      gather frmSend s =
          .next ({ s with rsp := some ⟨false, (frameOf a).b3⟩ }, (quadBytes (frameOf a)).map fun b => ⟨false, b⟩) ∧
        decodeWireBytes (quadBytes (frameOf a)) = .ok (.resetFrame a (frameOf a).b2 (frameOf a).b3) ∧
          (Instr.resetFrame a (frameOf a).b2 (frameOf a).b3).wellFormed = true

/-- The frame function (R81): its four bytes, the spec's example, and that the 256 frames differ pairwise in their checksum
bytes. -/
def Obligations.FramesDifferInChecksum : Prop :=
  (∀ a : Byte, frameOf a = ⟨a, 0x42, (crc16 [a, 0x42]).extractLsb' 0 8, (crc16 [a, 0x42]).extractLsb' 8 8⟩) ∧
    frameOf 0x01 = ⟨0x01, 0x42, 0x80, 0x11⟩ ∧
      ∀ a b : Byte, (frameOf a).b2 = (frameOf b).b2 → (frameOf a).b3 = (frameOf b).b3 → a = b

/-- The frame invariant (R83), from block reset on and through every accepted command word: whenever `FVALID = 1`, four bytes,
the function code, and the checksum of the first two, low byte first; and so for the frame of every address. -/
def Obligations.BuiltFrameIsWellFormed : Prop :=
  frameOk State.reset ∧
    (∀ (w : CommandWord) (s t : State), frameOk s → runCommand w s = .next t → frameOk t) ∧
      (∀ s : State, frameOk s → s.fvalid = true →
        ∃ b0 b1 b2 b3 : Byte, s.frame = ⟨some b0, some b1, some b2, some b3⟩ ∧ b1 = 0x42 ∧
          b2 = lo (crc16 [b0, b1]) ∧ b3 = hi (crc16 [b0, b1])) ∧
        ∀ a : Byte, (quadBytes (frameOf a)).length = 4 ∧
          (quadBytes (frameOf a)).drop 2 = checksum ((quadBytes (frameOf a)).take 2)

/-- From one `FRM_BUILD` to the next the frame stays as built, through every other command (R33). -/
def Obligations.FrameImmutableBetweenBuilds : Prop :=
  ∀ (is : List Instr) (s t : State), (∀ i ∈ is, ∀ a, i ≠ .frmBuild a) → runAll is s = .next t →
    t.frame = s.frame ∧ t.fvalid = s.fvalid

/-- `FVALID` (R18): 0 after block reset, set by every `FRM_BUILD`, cleared by no command; and the frame the block then always
holds is the last one built, through any sequence of command words. -/
def Obligations.FvalidSetAndNeverCleared : Prop :=
  State.reset.fvalid = false ∧
    (∀ (a : Byte) (s t : State), exec (.frmBuild a) s = .next t → t.fvalid = true ∧ t.frame = quadFull (frameOf a)) ∧
      (∀ (w : CommandWord) (s t : State), runCommand w s = .next t → s.fvalid = true → t.fvalid = true) ∧
        ∀ (a : Byte) (ws : List CommandWord) (s t : State), (∀ w ∈ ws, ∀ b, decodeCommand w ≠ .ok (.frmBuild b)) →
          runWords ((0x400 ||| a.setWidth 12) :: ws) s = .next t → t.fvalid = true ∧ t.frame = quadFull (frameOf a)

/-- `RSP_CLR` (R92). -/
def Obligations.RspClrEmptiesBuffer : Prop :=
  ∀ s : State,
    decodeCommand 0x600 = .ok .rspClr ∧
      exec .rspClr s =
          .next { s with
            resp := ⟨none, none, none, none⟩, rcnt := 0, mvalid := false, matched := false
            rsp := some ⟨false, 0x00⟩ } ∧
        ∀ d : Byte, d ≠ 0 → runCommand (commandWord 0x6 d) s = .next (raise .illegalCommand s)

/-- `RSP_PUSH d` (R93): the byte goes in at index `RCNT`, the others stay; with four held it is `RespOverflow` (R108). -/
def Obligations.RspPushAppendsByte : Prop :=
  ∀ (d : Byte) (s : State),
    decodeCommand (0x700 ||| d.setWidth 12) = .ok (.rspPush d) ∧
      (s.rcnt < 4 → ∃ q : Quad (Option Byte),
        exec (.rspPush d) s =
            .next { s with
              resp := q, rcnt := s.rcnt + 1, mvalid := false, matched := false, rsp := some ⟨false, 0x00⟩ } ∧
          q.b0 = (if s.rcnt = 0 then some d else s.resp.b0) ∧ q.b1 = (if s.rcnt = 1 then some d else s.resp.b1) ∧
            q.b2 = (if s.rcnt = 2 then some d else s.resp.b2) ∧ q.b3 = (if s.rcnt = 3 then some d else s.resp.b3)) ∧
        (s.rcnt = 4 → exec (.rspPush d) s = .next (raise .respOverflow s))

/-- `CMP` (R94, R109): `FrameNotBuilt` without a frame; with four bytes the comparison of all 32 bits. -/
def Obligations.CmpComparesFourBytes : Prop :=
  ∀ s : State,
    decodeCommand 0x800 = .ok .cmp ∧ (s.fvalid = false → exec .cmp s = .next (raise .frameNotBuilt s)) ∧
      (∀ f r : Quad Byte, s.fvalid = true → s.rcnt = 4 → s.frame = quadFull f → s.resp = quadFull r →
        exec .cmp s =
          .next { s with
            matched := decide (f = r), mvalid := true, rsp := some ⟨false, if f = r then 0x01 else 0x00⟩ }) ∧
        (s.fvalid = true → s.rcnt ≠ 4 →
          exec .cmp s = .next { s with matched := false, mvalid := true, rsp := some ⟨false, 0x00⟩ }) ∧
          ∀ d : Byte, d ≠ 0 → runCommand (commandWord 0x8 d) s = .next (raise .illegalCommand s)

/-- A short read is no match and no fault, whatever the bytes pushed so far (R95). -/
def Obligations.ShortReadIsNoMatch : Prop :=
  ∀ s : State, s.fvalid = true → s.rcnt < 4 →
    exec .cmp s = .next { s with matched := false, mvalid := true, rsp := some ⟨false, 0x00⟩ }

/-- `eq4` is 1 exactly when all 32 bits agree, and is symmetric (R91). -/
def Obligations.EqFourIsEquality : Prop :=
  ∀ f r : Quad Byte, (eq4 f r = true ↔ f = r) ∧ eq4 f r = eq4 r f ∧
    eq4 f r = (f.b0 == r.b0 && f.b1 == r.b1 && f.b2 == r.b2 && f.b3 == r.b3)

/-- `CMP` leaves `RESP` and `RCNT` as they were, a second one gives the same, and a push after it continues the same buffer
(R98). -/
def Obligations.CmpIsRepeatable : Prop :=
  ∀ s t : State, exec .cmp s = .next t →
    t.resp = s.resp ∧ t.rcnt = s.rcnt ∧ exec .cmp t = .next t ∧
      ∀ d : Byte, s.rcnt < 4 → ∃ u, exec (.rspPush d) t = .next u ∧ u.resp = quadPut s.resp s.rcnt.toNat (some d) ∧
        u.rcnt = s.rcnt + 1 ∧ u.mvalid = false

/-- When a result stops being valid, and when it does not (R99). -/
def Obligations.MatchFlagsWithdrawn : Prop :=
  (∀ s t : State, exec .rspClr s = .next t → t.mvalid = false ∧ t.matched = false) ∧
    (∀ (d : Byte) (s t : State), exec (.rspPush d) s = .next t → s.rcnt ≠ 4 → t.mvalid = false ∧ t.matched = false) ∧
      (∀ (a : Byte) (s t : State), exec (.frmBuild a) s = .next t → t.mvalid = false ∧ t.matched = false) ∧
        (∀ s t : State, takeEvent .assertRst s = .next t → t.mvalid = false ∧ t.matched = false) ∧
          (∀ (i : Instr) (s t : State), exec i s = .next t →
            (i = .nop ∨ i = .crcInit ∨ (∃ d, i = .crcByte d) ∨ (∃ b, i = .crcRd b) ∨ ∃ n, i = .frmRd n) →
              t.mvalid = s.mvalid ∧ t.matched = s.matched) ∧
            ∀ (w : CommandWord) (s t : State), runCommand w s = .next t → t.rsp = some ⟨true, 0x00⟩ →
              t.mvalid = s.mvalid ∧ t.matched = s.matched

/-- The only command that can set `MATCH` to 1 is a `CMP` that found equality (R100). -/
def Obligations.OnlyEqualCmpSetsMatch : Prop :=
  ∀ (w : CommandWord) (s t : State), runCommand w s = .next t → s.matched = false → t.matched = true →
    w = 0x800 ∧ s.fvalid = true ∧ s.rcnt = 4 ∧ s.resp = s.frame ∧ t.rsp = some ⟨false, 0x01⟩

/-- Sending a `RESET` frame (R85): the four bytes go on the wire in order, the block keeps its state and gives no completion.
That a wire frame is executed so is the model's choice (log 4). -/
def Obligations.ResetFrameGoesOnTheWire : Prop :=
  ∀ (a l h : Byte) (s : State),
    exec (.resetFrame a l h) s = .next { s with wire := s.wire ++ [a, 0x42, l, h], rsp := none }

/-! ### Faults (spec/60_exceptions.md) -/

/-- Taking a fault (R106) with its code (R105): of the state before the command only `ERR`, `CAUSE` and the completion. -/
def Obligations.FaultEntryRecordsFirstCause : Prop :=
  causeCode .illegalCommand = 1 ∧ causeCode .respOverflow = 2 ∧ causeCode .frameNotBuilt = 3 ∧
    ∀ (c : Cause) (s : State), raise c s =
      { s with cause := if s.err = false then causeCode c else s.cause, err := true, rsp := some ⟨true, 0x00⟩ }

/-- Which commands fault and when (R105, R106): a completion with `err = 1` comes from a reserved word, a fifth push, or a read
or comparison without a frame, and from nothing else; and then the whole next state is the fault entry. -/
def Obligations.FaultsOnlyForTheThreeCauses : Prop :=
  ∀ (w : CommandWord) (s t : State), runCommand w s = .next t →
    ((∃ c, t.rsp = some c ∧ c.err = true) ↔
        (∃ r, decodeCommand w = .error r) ∨ ((∃ d, decodeCommand w = .ok (.rspPush d)) ∧ s.rcnt = 4) ∨
          (((∃ i, decodeCommand w = .ok (.frmRd i)) ∨ decodeCommand w = .ok .cmp) ∧ s.fvalid = false)) ∧
      ((∃ c, t.rsp = some c ∧ c.err = true) → ∃ c, t = raise c s)

/-- Decode faults before state faults (R110): a badly encoded `FRM_RD` or `CMP` without a frame is `IllegalCommand`. -/
def Obligations.DecodeFaultWins : Prop :=
  ∀ (d : Byte) (s : State), s.fvalid = false → s.err = false →
    (d.extractLsb' 2 6 ≠ (0 : BitVec 6) →
        runCommand (commandWord 0x5 d) s = .next { s with err := true, cause := 1, rsp := some ⟨true, 0x00⟩ }) ∧
      (d ≠ 0 → runCommand (commandWord 0x8 d) s = .next { s with err := true, cause := 1, rsp := some ⟨true, 0x00⟩ })

/-- `ERR` is sticky and `CAUSE` keeps the first code, through any sequence of command words (R20, R113); the first
fault is the one that writes it. -/
def Obligations.FirstCauseIsKept : Prop :=
  (∀ (ws : List CommandWord) (s t : State), runWords ws s = .next t →
    (s.err = true → t.err = true ∧ t.cause = s.cause) ∧ (t.err = false → s.err = false ∧ t.cause = s.cause)) ∧
    ∀ (w : CommandWord) (s t : State), runCommand w s = .next t → s.err = false → t.err = true →
      ∃ c, t = raise c s ∧ t.cause = causeCode c

/-- A recorded fault steers nothing: with any `ERR` and `CAUSE` a command does the same to everything else, its completion
too (R20, R111). -/
def Obligations.FaultRecordSteersNothing : Prop :=
  ∀ (w : CommandWord) (s t : State) (e : Bool) (c : BitVec 2), runCommand w s = .next t →
    ∃ t', runCommand w { s with err := e, cause := c } = .next t' ∧ { t' with err := t.err, cause := t.cause } = t

/-- The host's duties (R131 (c), (e) to (h)) are enough: from a state of the invariant with no fault recorded, of which what
the host remembers is true, a sequence of its events that keeps them runs to its end with none recorded, so that duty (d)
never falls due; and what the host then remembers is true: the frame it built is valid, and `ACC` is the checksum of its own
bytes wherever no `FRM_BUILD` has come between (R138). The duties' bounds are the model's (log 18). -/
def Obligations.DutifulHostNeverFaults : Prop :=
  ∀ (es : List HostEvent) (v : HostView) (s : State), BlockInv s → viewHolds v s → s.err = false →
    keepsOrder v es = true →
      ∃ t, runEvents es s = .next t ∧ t.err = false ∧ BlockInv t ∧ viewHolds (es.foldl HostView.afterEvent v) t ∧
        heedsErr es s = true ∧ dutiesKept v es s = true

/-! ### Pins and clock (spec/10_state.md R25 to R31, spec/70_reset_and_hazards.md) -/

/-- The `STATUS` vector bit by bit (R25), and the completion word (R52). -/
def Obligations.StatusAndCompletionBits : Prop :=
  (∀ s : State,
    (statusWord s).getLsbD 0 = s.busy ∧ (statusWord s).getLsbD 1 = s.fvalid ∧ (statusWord s).getLsbD 2 = s.matched ∧
      (statusWord s).getLsbD 3 = s.mvalid ∧ (statusWord s).extractLsb' 4 3 = s.rcnt ∧
        (statusWord s).getLsbD 7 = s.err ∧ (statusWord s).extractLsb' 8 2 = s.cause) ∧
    ∀ c : Completion, (completionWord c).getLsbD 8 = c.err ∧ (completionWord c).extractLsb' 0 8 = c.data

/-- Acceptance (R29): an idle block takes exactly the word on the pins; a busy one ignores the command port. -/
def Obligations.AcceptanceAtThePort : Prop :=
  ∀ (p : Inputs) (s : State), p.rst = false →
    (s.busy = false → p.cmdValid = true →
        ∃ t, edge p s = .next t ∧ t.opreg = p.cmdOp ++ p.cmdData ∧ t.busy = true ∧ t.rsp = none) ∧
      (s.busy = true → ∀ q : Inputs, q.rst = false → edge p s = edge q s) ∧
        (s.busy = false → p.cmdValid = false → ∀ q : Inputs, q.rst = false → q.cmdValid = false → edge p s = edge q s)

/-- The bit-serial sequencer computes what the command level says: `LAT` edges after acceptance, whatever is on the port
meanwhile, the state is that of the command (R78, R90, R147); and a host that samples the completion pins when `rsp_valid` is
1 sees one completion, the command's (R30, R131 (b)). -/
def Obligations.SequencerComputesCommand : Prop :=
  ∀ (p : Inputs) (ps : List Inputs) (s : State), quiet s → p.rst = false → p.cmdValid = true →
    (∀ q ∈ ps, q.rst = false) → ps.length = latency (commandWord p.cmdOp p.cmdData) →
      edges (p :: ps) s = runCommand (commandWord p.cmdOp p.cmdData) s ∧
        ∀ t, runCommand (commandWord p.cmdOp p.cmdData) s = .next t →
          ∃ c, t.rsp = some c ∧ ∀ u : Completion, observe u (p :: ps) s = .next (t, [c])

/-- Until the completing edge the block is busy, gives no strobe, and every pin of `STATUS` but `BUSY` and both buffers keep
the values of acceptance (R31, R146). -/
def Obligations.NothingShowsBeforeCompletion : Prop :=
  ∀ (p : Inputs) (ps : List Inputs) (s : State), quiet s → p.rst = false → p.cmdValid = true →
    (∀ q ∈ ps, q.rst = false) → ps.length < latency (commandWord p.cmdOp p.cmdData) →
      ∃ t, edges (p :: ps) s = .next t ∧ t.busy = true ∧ t.rsp = none ∧ t.fvalid = s.fvalid ∧ t.matched = s.matched ∧
        t.mvalid = s.mvalid ∧ t.rcnt = s.rcnt ∧ t.err = s.err ∧ t.cause = s.cause ∧ t.frame = s.frame ∧ t.resp = s.resp

/-- The strobe (R149): an edge leaves one only if it is a completing edge, and then the block is free again; `cmd_ready` is
low while it is busy. -/
def Obligations.StrobeOnlyAfterCompletingEdge : Prop :=
  ∀ (p : Inputs) (s t : State) (u : Completion), edge p s = .next t →
    ((outputs false u t).rspValid = true → s.busy = true ∧ t.busy = false ∧ (outputs false u t).cmdReady = true) ∧
      (s.busy = true → t.busy = false → p.rst = false → (outputs false u t).rspValid = true) ∧
        (outputs p.rst u s).cmdReady = (!s.busy && !p.rst)

/-- Every clock edge keeps the clock-level invariant, whatever is on the pins. The invariant's clause on the hidden registers
inside a command is in part the model's choice, not R22's, R78's or R90's: `SEQ` 0 and then 1 inside `CRC_BYTE`, `BITCNT` 8
before an exclusive-or inside `FRM_BUILD` (log 6, 13); the schedule itself is the reference one (log 9). -/
def Obligations.EdgeKeepsClockInvariant : Prop :=
  ∀ (p : Inputs) (s : State), ClockInv s → ∃ t, edge p s = .next t ∧ ClockInv t

/-! ### The host's protocol (spec/60_exceptions.md R119 to R125), outside the block -/

/-- One attempt (R120, R121): with no fault recorded the frame is sent, and the result is true exactly when the bytes that
arrived are the frame. With a fault recorded, or no frame built, the attempt is a failure of the host's own programming: no
byte of it is sent, block reset is applied, and the operation ends so, with neither success nor failure (R131 (d)). -/
def Obligations.ExchangeTrueIffExactEcho : Prop :=
  (∀ (received : List Byte) (s : State), BlockInv s → s.fvalid = true → s.err = false →
    ∃ (x : Exchanged) (a : Byte), s.frame = quadFull (frameOf a) ∧ exchange (.bytes received) s = .next x ∧
      x.sent = quadBytes (frameOf a) ∧ x.block.wire = s.wire ++ quadBytes (frameOf a) ∧
        x.outcome = .compared (received.take 4) (decide (received.take 4 = quadBytes (frameOf a))) ∧
          x.block.frame = s.frame ∧ x.block.err = false ∧ BlockInv x.block) ∧
    (∀ (read : ReadResult) (s : State), BlockInv s → (s.err = true ∨ s.fvalid = false) →
      exchange read s = .next ⟨{ State.reset with inputs := s.inputs, wire := s.wire }, [], .hostFault⟩) ∧
      ∀ (env : AttemptEnv) (o : Operation), o.phase = .attempting → o.result = none → BlockInv o.block →
        (o.block.err = true ∨ o.block.fvalid = false) → (o.counter = 0 ∨ env.cancelInDelay = false) →
          ∃ o', attemptCycle env o = .next o' ∧ o'.result = some .hostFault ∧ o'.transportOpen = false ∧
            o'.block.err = false ∧ o'.block.matched = false

/-- Counting attempts (R123): with reads that are never the frame, three attempts, two delays of 500 ms, failure; with the
frame on attempt k + 1 after k mismatches, success after k + 1 attempts and k delays; from a block with a fault recorded too,
which the host resets first (R131 (d)). The four-byte reads and the counted delays are the model's choice (log 14). -/
def Obligations.RetriesAreBounded : Prop :=
  ∀ (a : Byte) (s : State) (bad : List (List Byte)) (rest : List AttemptEnv), BlockInv s →
    (∀ b ∈ bad, b.take 4 ≠ quadBytes (frameOf a)) →
      (bad.length = 3 →
        ∃ o, resetOperation a true (bad.map (fun b => ⟨false, .bytes b⟩) ++ rest) s = .next o ∧
          o.result = some .failure ∧ o.phase = .exhausted ∧ o.attempts = 3 ∧ o.counter = 3 ∧ o.delays = 2 ∧
            waitedMs o = 1000 ∧ o.transportOpen = false) ∧
        (bad.length < 3 →
          ∃ o, resetOperation a true
              (bad.map (fun b => ⟨false, .bytes b⟩) ++ ⟨false, .bytes (quadBytes (frameOf a))⟩ :: rest) s = .next o ∧
            o.result = some .success ∧ o.phase = .succeeded ∧ o.attempts = bad.length + 1 ∧ o.delays = bad.length ∧
              o.transportOpen = false ∧ o.block.matched = true)

/-- Cancellation (R125): in the delay or in the read it ends the operation with neither success nor failure, the transport
released; in the delay no command reaches the block. A fault of the block seen before the read ends it under its own name
(R131 (d)). -/
def Obligations.CancellationIsNeverSuccess : Prop :=
  ∀ (env : AttemptEnv) (o o' : Operation), o.phase = .attempting → o.result = none → attemptCycle env o = .next o' →
    (0 < o.counter → env.cancelInDelay = true → o'.result = some .cancellation ∧ o'.transportOpen = false ∧
        o'.attempts = o.attempts ∧ o'.block = o.block) ∧
      (env.read = .cancelled → o'.result ≠ some .success ∧ o'.result ≠ some .failure ∧ o'.transportOpen = false ∧
        (o.block.matched = false → o'.block.matched = false) ∧
          (o.block.err = false → o.block.fvalid = true → o'.result = some .cancellation)) ∧
        ∀ (envs : List AttemptEnv) (o'' : Operation), o'.result = some .cancellation →
          attemptCycles envs o' = .next o'' → o'' = o'
end

