-- ==== Sys2Proof/Laws/Crc.lean ====
section
/-! SUPPORT. The small lemmas of the checksum functions. -/

namespace Sys2Proof.Machine

theorem bitstep_of_low_bit_set {a : Acc} (h : a.getLsbD 0 = true) : bitstep a = (a >>> 1) ^^^ Config.crcPoly := by
  simp only [bitstep, h, if_true]

theorem bitstep_of_low_bit_clear {a : Acc} (h : a.getLsbD 0 = false) : bitstep a = a >>> 1 := by
  simp only [bitstep, h, Bool.false_eq_true, if_false]

@[simp] theorem bitsteps_zero (a : Acc) : bitsteps 0 a = a := rfl

theorem bitsteps_succ (n : Nat) (a : Acc) : bitsteps (n + 1) a = bitsteps n (bitstep a) := rfl

/-- The step that is last in time stands outside. -/
theorem bitsteps_succ_outer (n : Nat) (a : Acc) : bitsteps (n + 1) a = bitstep (bitsteps n a) := by
  induction n generalizing a with
  | zero => rfl
  | succ n ih => rw [bitsteps_succ, ih, ← bitsteps_succ]

theorem absorb_eq (a : Acc) (d : Byte) : absorb a d = bitsteps 8 (xorByte a d) := rfl

@[simp] theorem absorbAll_nil (a : Acc) : absorbAll a [] = a := rfl

@[simp] theorem absorbAll_cons (a : Acc) (d : Byte) (ds : List Byte) :
    absorbAll a (d :: ds) = absorbAll (absorb a d) ds := rfl

theorem absorbAll_append (a : Acc) (xs ys : List Byte) : absorbAll a (xs ++ ys) = absorbAll (absorbAll a xs) ys :=
  List.foldl_append

@[simp] theorem quadBytes_mk (w x y z : Byte) : quadBytes ⟨w, x, y, z⟩ = [w, x, y, z] := rfl

end Sys2Proof.Machine
end

