-- ==== Sys2Proof/Laws/State.lean ====
section
/-! SUPPORT. One lemma per field of `State` per named update, each true by rfl, so that no proof unfolds a record update. -/

namespace Sys2Proof.Machine

variable (s : State)

/-! ### Completing a command (R30, R52) -/

@[simp] theorem complete_acc (d : Byte) : (complete d s).acc = s.acc := rfl
@[simp] theorem complete_frame (d : Byte) : (complete d s).frame = s.frame := rfl
@[simp] theorem complete_resp (d : Byte) : (complete d s).resp = s.resp := rfl
@[simp] theorem complete_rcnt (d : Byte) : (complete d s).rcnt = s.rcnt := rfl
@[simp] theorem complete_fvalid (d : Byte) : (complete d s).fvalid = s.fvalid := rfl
@[simp] theorem complete_mvalid (d : Byte) : (complete d s).mvalid = s.mvalid := rfl
@[simp] theorem complete_matched (d : Byte) : (complete d s).matched = s.matched := rfl
@[simp] theorem complete_err (d : Byte) : (complete d s).err = s.err := rfl
@[simp] theorem complete_cause (d : Byte) : (complete d s).cause = s.cause := rfl
@[simp] theorem complete_busy (d : Byte) : (complete d s).busy = s.busy := rfl
@[simp] theorem complete_bitcnt (d : Byte) : (complete d s).bitcnt = s.bitcnt := rfl
@[simp] theorem complete_seq (d : Byte) : (complete d s).seq = s.seq := rfl
@[simp] theorem complete_opreg (d : Byte) : (complete d s).opreg = s.opreg := rfl
@[simp] theorem complete_rsp (d : Byte) : (complete d s).rsp = some ⟨false, d⟩ := rfl
@[simp] theorem complete_inputs (d : Byte) : (complete d s).inputs = s.inputs := rfl
@[simp] theorem complete_wire (d : Byte) : (complete d s).wire = s.wire := rfl

/-! ### Taking a fault (R106) -/

@[simp] theorem raise_acc (c : Cause) : (raise c s).acc = s.acc := rfl
@[simp] theorem raise_frame (c : Cause) : (raise c s).frame = s.frame := rfl
@[simp] theorem raise_resp (c : Cause) : (raise c s).resp = s.resp := rfl
@[simp] theorem raise_rcnt (c : Cause) : (raise c s).rcnt = s.rcnt := rfl
@[simp] theorem raise_fvalid (c : Cause) : (raise c s).fvalid = s.fvalid := rfl
@[simp] theorem raise_mvalid (c : Cause) : (raise c s).mvalid = s.mvalid := rfl
@[simp] theorem raise_matched (c : Cause) : (raise c s).matched = s.matched := rfl
@[simp] theorem raise_err (c : Cause) : (raise c s).err = true := rfl
@[simp] theorem raise_cause (c : Cause) : (raise c s).cause = if s.err then s.cause else causeCode c := rfl
@[simp] theorem raise_busy (c : Cause) : (raise c s).busy = s.busy := rfl
@[simp] theorem raise_bitcnt (c : Cause) : (raise c s).bitcnt = s.bitcnt := rfl
@[simp] theorem raise_seq (c : Cause) : (raise c s).seq = s.seq := rfl
@[simp] theorem raise_opreg (c : Cause) : (raise c s).opreg = s.opreg := rfl
@[simp] theorem raise_rsp (c : Cause) : (raise c s).rsp = some ⟨true, 0x00⟩ := rfl
@[simp] theorem raise_inputs (c : Cause) : (raise c s).inputs = s.inputs := rfl
@[simp] theorem raise_wire (c : Cause) : (raise c s).wire = s.wire := rfl

/-! ### Writing `ACC` -/

@[simp] theorem setAcc_acc (v : Acc) : (setAcc v s).acc = v := rfl
@[simp] theorem setAcc_frame (v : Acc) : (setAcc v s).frame = s.frame := rfl
@[simp] theorem setAcc_resp (v : Acc) : (setAcc v s).resp = s.resp := rfl
@[simp] theorem setAcc_rcnt (v : Acc) : (setAcc v s).rcnt = s.rcnt := rfl
@[simp] theorem setAcc_fvalid (v : Acc) : (setAcc v s).fvalid = s.fvalid := rfl
@[simp] theorem setAcc_mvalid (v : Acc) : (setAcc v s).mvalid = s.mvalid := rfl
@[simp] theorem setAcc_matched (v : Acc) : (setAcc v s).matched = s.matched := rfl
@[simp] theorem setAcc_err (v : Acc) : (setAcc v s).err = s.err := rfl
@[simp] theorem setAcc_cause (v : Acc) : (setAcc v s).cause = s.cause := rfl
@[simp] theorem setAcc_busy (v : Acc) : (setAcc v s).busy = s.busy := rfl
@[simp] theorem setAcc_bitcnt (v : Acc) : (setAcc v s).bitcnt = s.bitcnt := rfl
@[simp] theorem setAcc_seq (v : Acc) : (setAcc v s).seq = s.seq := rfl
@[simp] theorem setAcc_opreg (v : Acc) : (setAcc v s).opreg = s.opreg := rfl
@[simp] theorem setAcc_rsp (v : Acc) : (setAcc v s).rsp = s.rsp := rfl
@[simp] theorem setAcc_inputs (v : Acc) : (setAcc v s).inputs = s.inputs := rfl
@[simp] theorem setAcc_wire (v : Acc) : (setAcc v s).wire = s.wire := rfl

/-! ### Storing a built frame (R82) -/

@[simp] theorem storeFrame_acc (q : Quad Byte) : (storeFrame q s).acc = s.acc := rfl
@[simp] theorem storeFrame_frame (q : Quad Byte) : (storeFrame q s).frame = quadFull q := rfl
@[simp] theorem storeFrame_resp (q : Quad Byte) : (storeFrame q s).resp = s.resp := rfl
@[simp] theorem storeFrame_rcnt (q : Quad Byte) : (storeFrame q s).rcnt = s.rcnt := rfl
@[simp] theorem storeFrame_fvalid (q : Quad Byte) : (storeFrame q s).fvalid = true := rfl
@[simp] theorem storeFrame_mvalid (q : Quad Byte) : (storeFrame q s).mvalid = s.mvalid := rfl
@[simp] theorem storeFrame_matched (q : Quad Byte) : (storeFrame q s).matched = s.matched := rfl
@[simp] theorem storeFrame_err (q : Quad Byte) : (storeFrame q s).err = s.err := rfl
@[simp] theorem storeFrame_cause (q : Quad Byte) : (storeFrame q s).cause = s.cause := rfl
@[simp] theorem storeFrame_busy (q : Quad Byte) : (storeFrame q s).busy = s.busy := rfl
@[simp] theorem storeFrame_bitcnt (q : Quad Byte) : (storeFrame q s).bitcnt = s.bitcnt := rfl
@[simp] theorem storeFrame_seq (q : Quad Byte) : (storeFrame q s).seq = s.seq := rfl
@[simp] theorem storeFrame_opreg (q : Quad Byte) : (storeFrame q s).opreg = s.opreg := rfl
@[simp] theorem storeFrame_rsp (q : Quad Byte) : (storeFrame q s).rsp = s.rsp := rfl
@[simp] theorem storeFrame_inputs (q : Quad Byte) : (storeFrame q s).inputs = s.inputs := rfl
@[simp] theorem storeFrame_wire (q : Quad Byte) : (storeFrame q s).wire = s.wire := rfl

/-! ### Emptying the response buffer (R37) -/

@[simp] theorem emptyResp_acc : (emptyResp s).acc = s.acc := rfl
@[simp] theorem emptyResp_frame : (emptyResp s).frame = s.frame := rfl
@[simp] theorem emptyResp_resp : (emptyResp s).resp = quadNone := rfl
@[simp] theorem emptyResp_rcnt : (emptyResp s).rcnt = 0 := rfl
@[simp] theorem emptyResp_fvalid : (emptyResp s).fvalid = s.fvalid := rfl
@[simp] theorem emptyResp_mvalid : (emptyResp s).mvalid = s.mvalid := rfl
@[simp] theorem emptyResp_matched : (emptyResp s).matched = s.matched := rfl
@[simp] theorem emptyResp_err : (emptyResp s).err = s.err := rfl
@[simp] theorem emptyResp_cause : (emptyResp s).cause = s.cause := rfl
@[simp] theorem emptyResp_busy : (emptyResp s).busy = s.busy := rfl
@[simp] theorem emptyResp_bitcnt : (emptyResp s).bitcnt = s.bitcnt := rfl
@[simp] theorem emptyResp_seq : (emptyResp s).seq = s.seq := rfl
@[simp] theorem emptyResp_opreg : (emptyResp s).opreg = s.opreg := rfl
@[simp] theorem emptyResp_rsp : (emptyResp s).rsp = s.rsp := rfl
@[simp] theorem emptyResp_inputs : (emptyResp s).inputs = s.inputs := rfl
@[simp] theorem emptyResp_wire : (emptyResp s).wire = s.wire := rfl

/-! ### Appending a response byte (R37) -/

@[simp] theorem pushByte_acc (d : Byte) : (pushByte d s).acc = s.acc := rfl
@[simp] theorem pushByte_frame (d : Byte) : (pushByte d s).frame = s.frame := rfl
@[simp] theorem pushByte_resp (d : Byte) : (pushByte d s).resp = quadPut s.resp s.rcnt.toNat (some d) := rfl
@[simp] theorem pushByte_rcnt (d : Byte) : (pushByte d s).rcnt = s.rcnt + 1 := rfl
@[simp] theorem pushByte_fvalid (d : Byte) : (pushByte d s).fvalid = s.fvalid := rfl
@[simp] theorem pushByte_mvalid (d : Byte) : (pushByte d s).mvalid = s.mvalid := rfl
@[simp] theorem pushByte_matched (d : Byte) : (pushByte d s).matched = s.matched := rfl
@[simp] theorem pushByte_err (d : Byte) : (pushByte d s).err = s.err := rfl
@[simp] theorem pushByte_cause (d : Byte) : (pushByte d s).cause = s.cause := rfl
@[simp] theorem pushByte_busy (d : Byte) : (pushByte d s).busy = s.busy := rfl
@[simp] theorem pushByte_bitcnt (d : Byte) : (pushByte d s).bitcnt = s.bitcnt := rfl
@[simp] theorem pushByte_seq (d : Byte) : (pushByte d s).seq = s.seq := rfl
@[simp] theorem pushByte_opreg (d : Byte) : (pushByte d s).opreg = s.opreg := rfl
@[simp] theorem pushByte_rsp (d : Byte) : (pushByte d s).rsp = s.rsp := rfl
@[simp] theorem pushByte_inputs (d : Byte) : (pushByte d s).inputs = s.inputs := rfl
@[simp] theorem pushByte_wire (d : Byte) : (pushByte d s).wire = s.wire := rfl

/-! ### Bytes sent on the wire (R40) -/

@[simp] theorem sendBytes_acc (bs : List Byte) : (sendBytes bs s).acc = s.acc := rfl
@[simp] theorem sendBytes_frame (bs : List Byte) : (sendBytes bs s).frame = s.frame := rfl
@[simp] theorem sendBytes_resp (bs : List Byte) : (sendBytes bs s).resp = s.resp := rfl
@[simp] theorem sendBytes_rcnt (bs : List Byte) : (sendBytes bs s).rcnt = s.rcnt := rfl
@[simp] theorem sendBytes_fvalid (bs : List Byte) : (sendBytes bs s).fvalid = s.fvalid := rfl
@[simp] theorem sendBytes_mvalid (bs : List Byte) : (sendBytes bs s).mvalid = s.mvalid := rfl
@[simp] theorem sendBytes_matched (bs : List Byte) : (sendBytes bs s).matched = s.matched := rfl
@[simp] theorem sendBytes_err (bs : List Byte) : (sendBytes bs s).err = s.err := rfl
@[simp] theorem sendBytes_cause (bs : List Byte) : (sendBytes bs s).cause = s.cause := rfl
@[simp] theorem sendBytes_busy (bs : List Byte) : (sendBytes bs s).busy = s.busy := rfl
@[simp] theorem sendBytes_bitcnt (bs : List Byte) : (sendBytes bs s).bitcnt = s.bitcnt := rfl
@[simp] theorem sendBytes_seq (bs : List Byte) : (sendBytes bs s).seq = s.seq := rfl
@[simp] theorem sendBytes_opreg (bs : List Byte) : (sendBytes bs s).opreg = s.opreg := rfl
@[simp] theorem sendBytes_rsp (bs : List Byte) : (sendBytes bs s).rsp = none := rfl
@[simp] theorem sendBytes_inputs (bs : List Byte) : (sendBytes bs s).inputs = s.inputs := rfl
@[simp] theorem sendBytes_wire (bs : List Byte) : (sendBytes bs s).wire = s.wire ++ bs := rfl

/-! ### The end of the strobe (R149) -/

@[simp] theorem dropStrobe_acc : (dropStrobe s).acc = s.acc := rfl
@[simp] theorem dropStrobe_frame : (dropStrobe s).frame = s.frame := rfl
@[simp] theorem dropStrobe_resp : (dropStrobe s).resp = s.resp := rfl
@[simp] theorem dropStrobe_rcnt : (dropStrobe s).rcnt = s.rcnt := rfl
@[simp] theorem dropStrobe_fvalid : (dropStrobe s).fvalid = s.fvalid := rfl
@[simp] theorem dropStrobe_mvalid : (dropStrobe s).mvalid = s.mvalid := rfl
@[simp] theorem dropStrobe_matched : (dropStrobe s).matched = s.matched := rfl
@[simp] theorem dropStrobe_err : (dropStrobe s).err = s.err := rfl
@[simp] theorem dropStrobe_cause : (dropStrobe s).cause = s.cause := rfl
@[simp] theorem dropStrobe_busy : (dropStrobe s).busy = s.busy := rfl
@[simp] theorem dropStrobe_bitcnt : (dropStrobe s).bitcnt = s.bitcnt := rfl
@[simp] theorem dropStrobe_seq : (dropStrobe s).seq = s.seq := rfl
@[simp] theorem dropStrobe_opreg : (dropStrobe s).opreg = s.opreg := rfl
@[simp] theorem dropStrobe_rsp : (dropStrobe s).rsp = none := rfl
@[simp] theorem dropStrobe_inputs : (dropStrobe s).inputs = s.inputs := rfl
@[simp] theorem dropStrobe_wire : (dropStrobe s).wire = s.wire := rfl

/-! ### Withdrawing the match (R99) -/

@[simp] theorem clearMatch_acc : (clearMatch s).acc = s.acc := rfl
@[simp] theorem clearMatch_frame : (clearMatch s).frame = s.frame := rfl
@[simp] theorem clearMatch_resp : (clearMatch s).resp = s.resp := rfl
@[simp] theorem clearMatch_rcnt : (clearMatch s).rcnt = s.rcnt := rfl
@[simp] theorem clearMatch_fvalid : (clearMatch s).fvalid = s.fvalid := rfl
@[simp] theorem clearMatch_mvalid : (clearMatch s).mvalid = false := rfl
@[simp] theorem clearMatch_matched : (clearMatch s).matched = false := rfl
@[simp] theorem clearMatch_err : (clearMatch s).err = s.err := rfl
@[simp] theorem clearMatch_cause : (clearMatch s).cause = s.cause := rfl
@[simp] theorem clearMatch_busy : (clearMatch s).busy = s.busy := rfl
@[simp] theorem clearMatch_bitcnt : (clearMatch s).bitcnt = s.bitcnt := rfl
@[simp] theorem clearMatch_seq : (clearMatch s).seq = s.seq := rfl
@[simp] theorem clearMatch_opreg : (clearMatch s).opreg = s.opreg := rfl
@[simp] theorem clearMatch_rsp : (clearMatch s).rsp = s.rsp := rfl
@[simp] theorem clearMatch_inputs : (clearMatch s).inputs = s.inputs := rfl
@[simp] theorem clearMatch_wire : (clearMatch s).wire = s.wire := rfl

/-! ### The result of a comparison (R94) -/

@[simp] theorem setMatch_acc (m : Bool) : (setMatch m s).acc = s.acc := rfl
@[simp] theorem setMatch_frame (m : Bool) : (setMatch m s).frame = s.frame := rfl
@[simp] theorem setMatch_resp (m : Bool) : (setMatch m s).resp = s.resp := rfl
@[simp] theorem setMatch_rcnt (m : Bool) : (setMatch m s).rcnt = s.rcnt := rfl
@[simp] theorem setMatch_fvalid (m : Bool) : (setMatch m s).fvalid = s.fvalid := rfl
@[simp] theorem setMatch_mvalid (m : Bool) : (setMatch m s).mvalid = true := rfl
@[simp] theorem setMatch_matched (m : Bool) : (setMatch m s).matched = m := rfl
@[simp] theorem setMatch_err (m : Bool) : (setMatch m s).err = s.err := rfl
@[simp] theorem setMatch_cause (m : Bool) : (setMatch m s).cause = s.cause := rfl
@[simp] theorem setMatch_busy (m : Bool) : (setMatch m s).busy = s.busy := rfl
@[simp] theorem setMatch_bitcnt (m : Bool) : (setMatch m s).bitcnt = s.bitcnt := rfl
@[simp] theorem setMatch_seq (m : Bool) : (setMatch m s).seq = s.seq := rfl
@[simp] theorem setMatch_opreg (m : Bool) : (setMatch m s).opreg = s.opreg := rfl
@[simp] theorem setMatch_rsp (m : Bool) : (setMatch m s).rsp = s.rsp := rfl
@[simp] theorem setMatch_inputs (m : Bool) : (setMatch m s).inputs = s.inputs := rfl
@[simp] theorem setMatch_wire (m : Bool) : (setMatch m s).wire = s.wire := rfl

/-! ### The writes of `FRM_BUILD` but `ACC`'s (R82) -/

@[simp] theorem storeBuilt_acc (q : Quad Byte) : (storeBuilt q s).acc = s.acc := rfl
@[simp] theorem storeBuilt_frame (q : Quad Byte) : (storeBuilt q s).frame = quadFull q := rfl
@[simp] theorem storeBuilt_resp (q : Quad Byte) : (storeBuilt q s).resp = quadNone := rfl
@[simp] theorem storeBuilt_rcnt (q : Quad Byte) : (storeBuilt q s).rcnt = 0 := rfl
@[simp] theorem storeBuilt_fvalid (q : Quad Byte) : (storeBuilt q s).fvalid = true := rfl
@[simp] theorem storeBuilt_mvalid (q : Quad Byte) : (storeBuilt q s).mvalid = false := rfl
@[simp] theorem storeBuilt_matched (q : Quad Byte) : (storeBuilt q s).matched = false := rfl
@[simp] theorem storeBuilt_err (q : Quad Byte) : (storeBuilt q s).err = s.err := rfl
@[simp] theorem storeBuilt_cause (q : Quad Byte) : (storeBuilt q s).cause = s.cause := rfl
@[simp] theorem storeBuilt_busy (q : Quad Byte) : (storeBuilt q s).busy = s.busy := rfl
@[simp] theorem storeBuilt_bitcnt (q : Quad Byte) : (storeBuilt q s).bitcnt = s.bitcnt := rfl
@[simp] theorem storeBuilt_seq (q : Quad Byte) : (storeBuilt q s).seq = s.seq := rfl
@[simp] theorem storeBuilt_opreg (q : Quad Byte) : (storeBuilt q s).opreg = s.opreg := rfl
@[simp] theorem storeBuilt_rsp (q : Quad Byte) : (storeBuilt q s).rsp = s.rsp := rfl
@[simp] theorem storeBuilt_inputs (q : Quad Byte) : (storeBuilt q s).inputs = s.inputs := rfl
@[simp] theorem storeBuilt_wire (q : Quad Byte) : (storeBuilt q s).wire = s.wire := rfl

/-! ### The sequencer at a completing edge (R22) -/

@[simp] theorem release_acc : (release s).acc = s.acc := rfl
@[simp] theorem release_frame : (release s).frame = s.frame := rfl
@[simp] theorem release_resp : (release s).resp = s.resp := rfl
@[simp] theorem release_rcnt : (release s).rcnt = s.rcnt := rfl
@[simp] theorem release_fvalid : (release s).fvalid = s.fvalid := rfl
@[simp] theorem release_mvalid : (release s).mvalid = s.mvalid := rfl
@[simp] theorem release_matched : (release s).matched = s.matched := rfl
@[simp] theorem release_err : (release s).err = s.err := rfl
@[simp] theorem release_cause : (release s).cause = s.cause := rfl
@[simp] theorem release_busy : (release s).busy = false := rfl
@[simp] theorem release_bitcnt : (release s).bitcnt = 0 := rfl
@[simp] theorem release_seq : (release s).seq = 0 := rfl
@[simp] theorem release_opreg : (release s).opreg = 0 := rfl
@[simp] theorem release_rsp : (release s).rsp = s.rsp := rfl
@[simp] theorem release_inputs : (release s).inputs = s.inputs := rfl
@[simp] theorem release_wire : (release s).wire = s.wire := rfl

/-! ### The accepting edge (R78, R90) -/

@[simp] theorem accept_acc (w : CommandWord) : (accept w s).acc = s.acc := rfl
@[simp] theorem accept_frame (w : CommandWord) : (accept w s).frame = s.frame := rfl
@[simp] theorem accept_resp (w : CommandWord) : (accept w s).resp = s.resp := rfl
@[simp] theorem accept_rcnt (w : CommandWord) : (accept w s).rcnt = s.rcnt := rfl
@[simp] theorem accept_fvalid (w : CommandWord) : (accept w s).fvalid = s.fvalid := rfl
@[simp] theorem accept_mvalid (w : CommandWord) : (accept w s).mvalid = s.mvalid := rfl
@[simp] theorem accept_matched (w : CommandWord) : (accept w s).matched = s.matched := rfl
@[simp] theorem accept_err (w : CommandWord) : (accept w s).err = s.err := rfl
@[simp] theorem accept_cause (w : CommandWord) : (accept w s).cause = s.cause := rfl
@[simp] theorem accept_busy (w : CommandWord) : (accept w s).busy = true := rfl
@[simp] theorem accept_bitcnt (w : CommandWord) : (accept w s).bitcnt = 0 := rfl
@[simp] theorem accept_seq (w : CommandWord) : (accept w s).seq = if opField w = 4 then 1 else 0 := rfl
@[simp] theorem accept_opreg (w : CommandWord) : (accept w s).opreg = w := rfl
@[simp] theorem accept_rsp (w : CommandWord) : (accept w s).rsp = none := rfl
@[simp] theorem accept_inputs (w : CommandWord) : (accept w s).inputs = s.inputs := rfl
@[simp] theorem accept_wire (w : CommandWord) : (accept w s).wire = s.wire := rfl

/-! ### Absorbing a byte, edge by edge (R78, R90) -/

@[simp] theorem xorEdge_acc (d : Byte) : (xorEdge d s).acc = xorByte s.acc d := rfl
@[simp] theorem xorEdge_frame (d : Byte) : (xorEdge d s).frame = s.frame := rfl
@[simp] theorem xorEdge_resp (d : Byte) : (xorEdge d s).resp = s.resp := rfl
@[simp] theorem xorEdge_rcnt (d : Byte) : (xorEdge d s).rcnt = s.rcnt := rfl
@[simp] theorem xorEdge_fvalid (d : Byte) : (xorEdge d s).fvalid = s.fvalid := rfl
@[simp] theorem xorEdge_mvalid (d : Byte) : (xorEdge d s).mvalid = s.mvalid := rfl
@[simp] theorem xorEdge_matched (d : Byte) : (xorEdge d s).matched = s.matched := rfl
@[simp] theorem xorEdge_err (d : Byte) : (xorEdge d s).err = s.err := rfl
@[simp] theorem xorEdge_cause (d : Byte) : (xorEdge d s).cause = s.cause := rfl
@[simp] theorem xorEdge_busy (d : Byte) : (xorEdge d s).busy = s.busy := rfl
@[simp] theorem xorEdge_bitcnt (d : Byte) : (xorEdge d s).bitcnt = 0 := rfl
@[simp] theorem xorEdge_seq (d : Byte) : (xorEdge d s).seq = s.seq := rfl
@[simp] theorem xorEdge_opreg (d : Byte) : (xorEdge d s).opreg = s.opreg := rfl
@[simp] theorem xorEdge_rsp (d : Byte) : (xorEdge d s).rsp = s.rsp := rfl
@[simp] theorem xorEdge_inputs (d : Byte) : (xorEdge d s).inputs = s.inputs := rfl
@[simp] theorem xorEdge_wire (d : Byte) : (xorEdge d s).wire = s.wire := rfl

/-! ### A bit step -/

@[simp] theorem bitEdge_acc : (bitEdge s).acc = bitstep s.acc := rfl
@[simp] theorem bitEdge_frame : (bitEdge s).frame = s.frame := rfl
@[simp] theorem bitEdge_resp : (bitEdge s).resp = s.resp := rfl
@[simp] theorem bitEdge_rcnt : (bitEdge s).rcnt = s.rcnt := rfl
@[simp] theorem bitEdge_fvalid : (bitEdge s).fvalid = s.fvalid := rfl
@[simp] theorem bitEdge_mvalid : (bitEdge s).mvalid = s.mvalid := rfl
@[simp] theorem bitEdge_matched : (bitEdge s).matched = s.matched := rfl
@[simp] theorem bitEdge_err : (bitEdge s).err = s.err := rfl
@[simp] theorem bitEdge_cause : (bitEdge s).cause = s.cause := rfl
@[simp] theorem bitEdge_busy : (bitEdge s).busy = s.busy := rfl
@[simp] theorem bitEdge_bitcnt : (bitEdge s).bitcnt = s.bitcnt + 1 := rfl
@[simp] theorem bitEdge_seq : (bitEdge s).seq = s.seq := rfl
@[simp] theorem bitEdge_opreg : (bitEdge s).opreg = s.opreg := rfl
@[simp] theorem bitEdge_rsp : (bitEdge s).rsp = s.rsp := rfl
@[simp] theorem bitEdge_inputs : (bitEdge s).inputs = s.inputs := rfl
@[simp] theorem bitEdge_wire : (bitEdge s).wire = s.wire := rfl

/-! ### Edge 1 of `FRM_BUILD` (R90) -/

@[simp] theorem seedEdge_acc : (seedEdge s).acc = Config.crcSeed := rfl
@[simp] theorem seedEdge_frame : (seedEdge s).frame = s.frame := rfl
@[simp] theorem seedEdge_resp : (seedEdge s).resp = s.resp := rfl
@[simp] theorem seedEdge_rcnt : (seedEdge s).rcnt = s.rcnt := rfl
@[simp] theorem seedEdge_fvalid : (seedEdge s).fvalid = s.fvalid := rfl
@[simp] theorem seedEdge_mvalid : (seedEdge s).mvalid = s.mvalid := rfl
@[simp] theorem seedEdge_matched : (seedEdge s).matched = s.matched := rfl
@[simp] theorem seedEdge_err : (seedEdge s).err = s.err := rfl
@[simp] theorem seedEdge_cause : (seedEdge s).cause = s.cause := rfl
@[simp] theorem seedEdge_busy : (seedEdge s).busy = s.busy := rfl
@[simp] theorem seedEdge_bitcnt : (seedEdge s).bitcnt = 8 := rfl
@[simp] theorem seedEdge_seq : (seedEdge s).seq = s.seq := rfl
@[simp] theorem seedEdge_opreg : (seedEdge s).opreg = s.opreg := rfl
@[simp] theorem seedEdge_rsp : (seedEdge s).rsp = s.rsp := rfl
@[simp] theorem seedEdge_inputs : (seedEdge s).inputs = s.inputs := rfl
@[simp] theorem seedEdge_wire : (seedEdge s).wire = s.wire := rfl

/-! ### The next phase (R90) -/

@[simp] theorem enterPhase_acc (n : BitVec 3) : (enterPhase n s).acc = s.acc := rfl
@[simp] theorem enterPhase_frame (n : BitVec 3) : (enterPhase n s).frame = s.frame := rfl
@[simp] theorem enterPhase_resp (n : BitVec 3) : (enterPhase n s).resp = s.resp := rfl
@[simp] theorem enterPhase_rcnt (n : BitVec 3) : (enterPhase n s).rcnt = s.rcnt := rfl
@[simp] theorem enterPhase_fvalid (n : BitVec 3) : (enterPhase n s).fvalid = s.fvalid := rfl
@[simp] theorem enterPhase_mvalid (n : BitVec 3) : (enterPhase n s).mvalid = s.mvalid := rfl
@[simp] theorem enterPhase_matched (n : BitVec 3) : (enterPhase n s).matched = s.matched := rfl
@[simp] theorem enterPhase_err (n : BitVec 3) : (enterPhase n s).err = s.err := rfl
@[simp] theorem enterPhase_cause (n : BitVec 3) : (enterPhase n s).cause = s.cause := rfl
@[simp] theorem enterPhase_busy (n : BitVec 3) : (enterPhase n s).busy = s.busy := rfl
@[simp] theorem enterPhase_bitcnt (n : BitVec 3) : (enterPhase n s).bitcnt = s.bitcnt := rfl
@[simp] theorem enterPhase_seq (n : BitVec 3) : (enterPhase n s).seq = n := rfl
@[simp] theorem enterPhase_opreg (n : BitVec 3) : (enterPhase n s).opreg = s.opreg := rfl
@[simp] theorem enterPhase_rsp (n : BitVec 3) : (enterPhase n s).rsp = s.rsp := rfl
@[simp] theorem enterPhase_inputs (n : BitVec 3) : (enterPhase n s).inputs = s.inputs := rfl
@[simp] theorem enterPhase_wire (n : BitVec 3) : (enterPhase n s).wire = s.wire := rfl

/-! ### Block reset (R133) -/

@[simp] theorem blockReset_acc : (blockReset s).acc = 0xFFFF := rfl
@[simp] theorem blockReset_frame : (blockReset s).frame = quadNone := rfl
@[simp] theorem blockReset_resp : (blockReset s).resp = quadNone := rfl
@[simp] theorem blockReset_rcnt : (blockReset s).rcnt = 0 := rfl
@[simp] theorem blockReset_fvalid : (blockReset s).fvalid = false := rfl
@[simp] theorem blockReset_mvalid : (blockReset s).mvalid = false := rfl
@[simp] theorem blockReset_matched : (blockReset s).matched = false := rfl
@[simp] theorem blockReset_err : (blockReset s).err = false := rfl
@[simp] theorem blockReset_cause : (blockReset s).cause = 0 := rfl
@[simp] theorem blockReset_busy : (blockReset s).busy = false := rfl
@[simp] theorem blockReset_bitcnt : (blockReset s).bitcnt = 0 := rfl
@[simp] theorem blockReset_seq : (blockReset s).seq = 0 := rfl
@[simp] theorem blockReset_opreg : (blockReset s).opreg = 0 := rfl
@[simp] theorem blockReset_rsp : (blockReset s).rsp = none := rfl
@[simp] theorem blockReset_inputs : (blockReset s).inputs = s.inputs := rfl
@[simp] theorem blockReset_wire : (blockReset s).wire = s.wire := rfl

end Sys2Proof.Machine
end

