-- ==== Sys2Proof/Laws/Ops.lean ====
section
/-! SUPPORT. For each shared operation what it can do, said once: the provers cite these and do not unfold the operation. -/

namespace Sys2Proof.Machine

/-! ### Going on from a result -/

@[simp] theorem andThen_next (s : State) (f : State → Result) : andThen (.next s) f = f s := rfl

@[simp] theorem andThen_fault (e : Fault) (f : State → Result) : andThen (.fault e) f = .fault e := rfl

@[simp] theorem andThen_refused (e : Refusal) (f : State → Result) : andThen (.refused e) f = .refused e := rfl

theorem andThen_eq_next {r : Result} {f : State → Result} {t : State} (h : andThen r f = .next t) :
    ∃ s, r = .next s ∧ f s = .next t := by
  cases r with
  | next s => exact ⟨s, rfl, h⟩
  | fault e => cases h
  | refused e => cases h

/-! ### The buffers -/

@[simp] theorem quadAll_quadFull (q : Quad Byte) : quadAll (quadFull q) = some q := rfl

theorem quadAll_eq_some {q : Quad (Option Byte)} {r : Quad Byte} (h : quadAll q = some r) : q = quadFull r := by
  rcases q with ⟨_ | _, _ | _, _ | _, _ | _⟩ <;> simp_all [quadAll, quadFull]
  rw [← h]
  exact ⟨rfl, rfl, rfl, rfl⟩

theorem quadFull_injective {q r : Quad Byte} (h : quadFull q = quadFull r) : q = r :=
  Option.some.inj (congrArg quadAll h)

theorem quadAt_quadFull (q : Quad Byte) (i : BitVec 2) : quadAt (quadFull q) i = some (quadAt q i) := by
  unfold quadAt
  split <;> rfl

/-- The pushed byte is at its index, the others are as they were (R37). -/
theorem quadPut_cases {α : Type} (q : Quad α) {n : Nat} (hn : n < 4) (v : α) :
    (n = 0 ∧ quadPut q n v = ⟨v, q.b1, q.b2, q.b3⟩) ∨ (n = 1 ∧ quadPut q n v = ⟨q.b0, v, q.b2, q.b3⟩) ∨
      (n = 2 ∧ quadPut q n v = ⟨q.b0, q.b1, v, q.b3⟩) ∨ (n = 3 ∧ quadPut q n v = ⟨q.b0, q.b1, q.b2, v⟩) := by
  obtain rfl | rfl | rfl | rfl : n = 0 ∨ n = 1 ∨ n = 2 ∨ n = 3 := by omega
  · exact .inl ⟨rfl, rfl⟩
  · exact .inr (.inl ⟨rfl, rfl⟩)
  · exact .inr (.inr (.inl ⟨rfl, rfl⟩))
  · exact .inr (.inr (.inr ⟨rfl, rfl⟩))

/-! ### The meanings that branch -/

/-- Everything `FRM_RD` can do with a next state (R84). -/
theorem execFrmRd_cases {i : BitVec 2} {s t : State} (h : execFrmRd i s = .next t) :
    (s.fvalid = true ∧ ∃ b, quadAt s.frame i = some b ∧ t = complete b s) ∨
      (s.fvalid = false ∧ t = raise .frameNotBuilt s) := by
  unfold execFrmRd at h
  split at h
  · rename_i hv
    split at h
    · rename_i b hb
      exact .inl ⟨hv, b, hb, by simpa using h.symm⟩
    · cases h
  · rename_i hv
    exact .inr ⟨by simpa using hv, by simpa using h.symm⟩

/-- Everything `RSP_PUSH` can do with a next state (R93). -/
theorem execRspPush_cases {d : Byte} {s t : State} (h : execRspPush d s = .next t) :
    (s.rcnt = 4 ∧ t = raise .respOverflow s) ∨ (s.rcnt < 4 ∧ t = complete 0x00 (clearMatch (pushByte d s))) := by
  unfold execRspPush at h
  split at h
  · rename_i h4
    exact .inl ⟨h4, by simpa using h.symm⟩
  · split at h
    · rename_i hlt
      exact .inr ⟨hlt, by simpa using h.symm⟩
    · cases h

/-- Everything a comparison of full buffers can do with a next state (R94). -/
theorem compareFull_cases {s t : State} (h : compareFull s = .next t) :
    ∃ f r, s.frame = quadFull f ∧ s.resp = quadFull r ∧ t = complete (matchByte (eq4 f r)) (setMatch (eq4 f r) s) := by
  unfold compareFull at h
  split at h
  · rename_i f r hf hr
    exact ⟨f, r, quadAll_eq_some hf, quadAll_eq_some hr, by simpa using h.symm⟩
  · cases h

/-- Everything `CMP` can do with a next state (R94, R95, R109). -/
theorem execCmp_cases {s t : State} (h : execCmp s = .next t) :
    (s.fvalid = true ∧ s.rcnt = 4 ∧ compareFull s = .next t) ∨
      (s.fvalid = true ∧ s.rcnt ≠ 4 ∧ t = complete (matchByte false) (setMatch false s)) ∨
        (s.fvalid = false ∧ t = raise .frameNotBuilt s) := by
  unfold execCmp at h
  split at h
  · rename_i hv
    split at h
    · rename_i h4
      exact .inl ⟨hv, h4, h⟩
    · rename_i h4
      exact .inr (.inl ⟨hv, h4, by simpa using h.symm⟩)
  · rename_i hv
    exact .inr (.inr ⟨by simpa using hv, by simpa using h.symm⟩)

/-! ### Commands, events and steps -/

/-- An accepted word runs its instruction, or is reserved and raises `IllegalCommand` (R55, R56). -/
theorem runCommand_cases (w : CommandWord) (s : State) :
    (∃ i, decodeCommand w = .ok i ∧ runCommand w s = exec i s) ∨
      (∃ r, decodeCommand w = .error r ∧ runCommand w s = .next (raise .illegalCommand s)) := by
  unfold runCommand
  cases decodeCommand w with
  | ok i => exact .inl ⟨i, rfl, rfl⟩
  | error r => exact .inr ⟨r, rfl, rfl⟩

/-- Four wire bytes run their instruction, or are no frame of the table and are refused (R57). -/
theorem runWire_cases (w : WireWord) (s : State) :
    (∃ i, decodeWire w = .ok i ∧ runWire w s = exec i s) ∨
      (∃ r, decodeWire w = .error r ∧ runWire w s = .refused .wireWordNotReset) := by
  unfold runWire
  cases decodeWire w with
  | ok i => exact .inl ⟨i, rfl, rfl⟩
  | error r => exact .inr ⟨r, rfl, rfl⟩

/-- Everything an event of the host can do with a next state. -/
theorem takeEvent_cases {e : HostEvent} {s t : State} (h : takeEvent e s = .next t) :
    (∃ w i, e = .word w ∧ decode w = .ok i ∧ exec i s = .next t) ∨
      (∃ w r, e = .word (.command w) ∧ decodeCommand w = .error r ∧ t = raise .illegalCommand s) ∨
        (e = .assertRst ∧ t = blockReset s) ∨ (e = .idle ∧ t = dropStrobe s) := by
  match e, h with
  | .word (.command w), h =>
    obtain ⟨i, hd, hr⟩ | ⟨r, hd, hr⟩ := runCommand_cases w s
    · exact .inl ⟨.command w, i, rfl, hd, hr.symm.trans h⟩
    · refine .inr (.inl ⟨w, r, rfl, hd, ?_⟩)
      have := hr.symm.trans h
      simpa using this.symm
  | .word (.wire w), h =>
    obtain ⟨i, hd, hr⟩ | ⟨r, hd, hr⟩ := runWire_cases w s
    · exact .inl ⟨.wire w, i, rfl, hd, hr.symm.trans h⟩
    · have := hr.symm.trans h
      cases this
  | .assertRst, h => exact .inr (.inr (.inl ⟨rfl, by simpa [takeEvent] using h.symm⟩))
  | .idle, h => exact .inr (.inr (.inr ⟨rfl, by simpa [takeEvent] using h.symm⟩))

/-- Everything a step can do: it completes the command in hand, takes the host's next event, or idles. -/
theorem step_cases (s : State) :
    (s.busy = true ∧ step s = drain Config.latFrmBuild s) ∨
      (s.busy = false ∧ s.inputs = [] ∧ step s = .next (dropStrobe s)) ∨
        (s.busy = false ∧ ∃ e rest, s.inputs = e :: rest ∧ step s = takeEvent e { s with inputs := rest }) := by
  unfold step
  cases hb : s.busy
  · cases hi : s.inputs with
    | nil => exact .inr (.inl ⟨rfl, rfl, by simp⟩)
    | cons e rest => exact .inr (.inr ⟨rfl, e, rest, rfl, by simp⟩)
  · exact .inl ⟨rfl, by simp⟩

/-! ### Edges -/

/-- Everything a clock edge can do (R29, R46 (d), R133). -/
theorem edge_cases (p : Inputs) (s : State) :
    (p.rst = true ∧ edge p s = .next (blockReset s)) ∨
      (p.rst = false ∧ s.busy = true ∧ edge p s = advance (dropStrobe s)) ∨
        (p.rst = false ∧ s.busy = false ∧ p.cmdValid = true ∧
            edge p s = .next (accept (commandWord p.cmdOp p.cmdData) s)) ∨
          (p.rst = false ∧ s.busy = false ∧ p.cmdValid = false ∧ edge p s = .next (dropStrobe s)) := by
  unfold edge
  cases p.rst <;> cases s.busy <;> cases p.cmdValid <;> simp

/-- A command of one clock does what `exec` says and frees the sequencer (R147). -/
theorem oneEdge_eq_next {i : Instr} {s t : State} (h : oneEdge i s = .next t) :
    ∃ u, exec i s = .next u ∧ t = release u := by
  obtain ⟨u, hu, ht⟩ := andThen_eq_next h
  exact ⟨u, hu, by simpa using ht.symm⟩

/-- Everything an edge of an absorbing phase can do with a next state (R90). -/
theorem absorbPhase_cases {d : Byte} {n : BitVec 3} {s t : State} (h : absorbPhase d n s = .next t) :
    (s.bitcnt = 8 ∧ t = xorEdge d s) ∨ (s.bitcnt = 7 ∧ t = enterPhase n (bitEdge s)) ∨
      (s.bitcnt < 7 ∧ t = bitEdge s) := by
  unfold absorbPhase at h
  split at h
  · rename_i h8
    exact .inl ⟨h8, by simpa using h.symm⟩
  · split at h
    · rename_i h7
      exact .inr (.inl ⟨h7, by simpa using h.symm⟩)
    · split at h
      · rename_i hlt
        exact .inr (.inr ⟨hlt, by simpa using h.symm⟩)
      · cases h

/-- Everything an edge of `CRC_BYTE` can do with a next state (R78). -/
theorem crcByteEdge_cases {d : Byte} {s t : State} (h : crcByteEdge d s = .next t) :
    (s.seq = 0 ∧ t = enterPhase 1 (xorEdge d s)) ∨
      (s.seq = 1 ∧ s.bitcnt = 7 ∧ t = release (complete 0x00 (bitEdge s))) ∨
        (s.seq = 1 ∧ s.bitcnt < 7 ∧ t = bitEdge s) := by
  unfold crcByteEdge at h
  split at h
  · rename_i h0
    exact .inl ⟨BitVec.eq_of_toNat_eq h0, by simpa using h.symm⟩
  · rename_i h1
    replace h1 : s.seq = 1 := BitVec.eq_of_toNat_eq h1
    split at h
    · rename_i h7
      exact .inr (.inl ⟨h1, h7, by simpa using h.symm⟩)
    · split at h
      · rename_i hlt
        exact .inr (.inr ⟨h1, hlt, by simpa using h.symm⟩)
      · cases h
  · cases h

/-! ### Sequences -/

@[simp] theorem runAll_nil (s : State) : runAll [] s = .next s := rfl

@[simp] theorem runAll_cons (i : Instr) (is : List Instr) (s : State) :
    runAll (i :: is) s = andThen (exec i s) (runAll is) := rfl

theorem runAll_append (is js : List Instr) (s : State) : runAll (is ++ js) s = andThen (runAll is s) (runAll js) := by
  induction is generalizing s with
  | nil => rfl
  | cons i is ih =>
    rw [List.cons_append, runAll_cons, runAll_cons]
    cases exec i s with
    | next t => exact ih t
    | fault e => rfl
    | refused e => rfl

@[simp] theorem runEvents_nil (s : State) : runEvents [] s = .next s := rfl

@[simp] theorem runEvents_cons (e : HostEvent) (es : List HostEvent) (s : State) :
    runEvents (e :: es) s = andThen (takeEvent e s) (runEvents es) := rfl

@[simp] theorem gather_nil (s : State) : gather [] s = .next (s, []) := rfl

/-- A command that answers a next state puts its completion at the head of those gathered. -/
theorem gather_cons {i : Instr} {is : List Instr} {s t u : State} {cs : List Completion} (h : exec i s = .next t)
    (hs : gather is t = .next (u, cs)) : gather (i :: is) s = .next (u, t.rsp.toList ++ cs) := by
  simp only [gather, h, hs]

end Sys2Proof.Machine
end

