-- ==== Sys2Proof/Laws/Host.lean ====
section
/-! SUPPORT. What the shared operations of the host's side can do, said once (spec/60_exceptions.md R119 to R131). -/

namespace Sys2Proof.Machine

/-! ### Issuing commands -/

/-- Commands that show no fault: the host goes on from their completions. -/
theorem issueThen_trusted {α : Type} {is : List Instr} {s t : State} {cs : List Completion} (onFault : State → α)
    (f : State → List Completion → Host.Outcome α Fault Refusal) (h : gather is s = .next (t, cs))
    (hf : seesFault t cs = false) : issueThen is s onFault f = f t cs := by
  simp [issueThen, h, hf]

/-- Commands that show one: block reset, and nothing trusted of them (R131 (d)). -/
theorem issueThen_fault {α : Type} {is : List Instr} {s t : State} {cs : List Completion} (onFault : State → α)
    (f : State → List Completion → Host.Outcome α Fault Refusal) (h : gather is s = .next (t, cs))
    (hf : seesFault t cs = true) : issueThen is s onFault f = .next (onFault (blockReset t)) := by
  simp [issueThen, h, hf]

theorem seesFault_eq_false {s : State} {cs : List Completion} :
    seesFault s cs = false ↔ s.err = false ∧ ∀ c ∈ cs, c.err = false := by
  simp [seesFault]

@[simp] theorem trusted_err (s : State) : (trusted s).err = false := by
  unfold trusted
  cases h : s.err <;> simp [h]

/-! ### The duties -/

@[simp] theorem keepsOrder_nil (v : HostView) : keepsOrder v [] = true := rfl

@[simp] theorem keepsOrder_cons (v : HostView) (e : HostEvent) (es : List HostEvent) :
    keepsOrder v (e :: es) = true ↔ v.allowsEvent e = true ∧ keepsOrder (v.afterEvent e) es = true := by
  simp [keepsOrder]

/-- With no fault recorded every event heeds it, and the duty goes on from the state after the event (R131 (d)). -/
theorem heedsErr_cons {e : HostEvent} {es : List HostEvent} {s t : State} (h : s.err = false)
    (ht : takeEvent e s = .next t) : heedsErr (e :: es) s = heedsErr es t := by
  simp [heedsErr, h, ht]

/-- A cycle without the strobe shows the host nothing; one with it shows the completion (R131 (b)). -/
theorem observe_cons {u : Completion} {p : Inputs} {ps : List Inputs} {s t w : State} {cs : List Completion}
    (h : edge p s = .next t) (hs : observe u ps t = .next (w, cs)) :
    observe u (p :: ps) s = .next (w, t.rsp.toList ++ cs) := by
  simp only [observe, h, hs]
  cases ht : t.rsp <;> simp [outputs, ht]

end Sys2Proof.Machine
end

