-- ==== Sys2Proof/Laws/PerInstr.lean ====
section
/-! SUPPORT. Statements made per instruction. `OwnRow`: what is written for an instruction selects exactly its own row of the
opcode table (spec/30_encoding.md R54; R57 for the wire frame). -/

namespace Sys2Proof.Laws.OwnRow

/-- The place of an instruction's row among the nine of R54; the wire frame has none. -/
def place : Instr → Option Nat
  | .nop => some 0
  | .crcInit => some 1
  | .crcByte _ => some 2
  | .crcRd _ => some 3
  | .frmBuild _ => some 4
  | .frmRd _ => some 5
  | .rspClr => some 6
  | .rspPush _ => some 7
  | .cmp => some 8
  | .resetFrame _ _ _ => none

/-- The places of the rows a command word selects. -/
def selectedBy (w : CommandWord) : List Nat :=
  (List.range opcodeRows.length).filter fun n => (opcodeRows[n]?).any fun r => r.selects w

/-- The written form selects its own row and no other. -/
def Statement (i : Instr) : Prop :=
  match encode i with
  | .command w => selectedBy w = (place i).toList
  | .wire w => place i = none ∧ w &&& 0x00FF0000 = 0x00420000

theorem nop : Statement .nop := by
  show selectedBy _ = _
  decide

theorem crcInit : Statement .crcInit := by
  show selectedBy _ = _
  decide

theorem crcByte (d : Byte) : Statement (.crcByte d) := by
  have h : ∀ x : Byte, selectedBy (Machine.commandWord 0x2 x) = [2] := by decide
  exact h d

theorem crcRd (s : BitVec 1) : Statement (.crcRd s) := by
  have h : ∀ x : BitVec 1, selectedBy (Machine.commandWord 0x3 (x.setWidth 8)) = [3] := by decide
  exact h s

theorem frmBuild (a : Byte) : Statement (.frmBuild a) := by
  have h : ∀ x : Byte, selectedBy (Machine.commandWord 0x4 x) = [4] := by decide
  exact h a

theorem frmRd (i : BitVec 2) : Statement (.frmRd i) := by
  have h : ∀ x : BitVec 2, selectedBy (Machine.commandWord 0x5 (x.setWidth 8)) = [5] := by decide
  exact h i

theorem rspClr : Statement .rspClr := by
  show selectedBy _ = _
  decide

theorem rspPush (d : Byte) : Statement (.rspPush d) := by
  have h : ∀ x : Byte, selectedBy (Machine.commandWord 0x7 x) = [7] := by decide
  exact h d

theorem cmp : Statement .cmp := by
  show selectedBy _ = _
  decide

theorem resetFrame (address crcLo crcHi : Byte) : Statement (.resetFrame address crcLo crcHi) := by
  refine ⟨rfl, ?_⟩
  apply BitVec.eq_of_getLsbD_eq
  intro i hi
  simp only [Machine.wireWord, BitVec.getLsbD_and, BitVec.getLsbD_append]
  interval_cases i <;> simp [Config.funcReset]

end Sys2Proof.Laws.OwnRow
end

