-- ==== Sys2Proof/Tests/Slice0.lean ====
section
/-! SUPPORT. The model's own tests. Every expected value is the spec's: spec/95_test_vectors.md by its ids (B, A, V, E, M, F, Z,
P, H), or the rule named. After them, one witness for the hypotheses of each statement that has some. -/

namespace Sys2Proof.Tests

open Sys2Proof.Machine

/-- Does a result answer a next state of which something holds? -/
def answers (r : Result) (p : State → Bool) : Bool :=
  match r with
  | .next t => p t
  | .fault _ => false
  | .refused _ => false

/-- The frame of address 1 (golden vector V1). -/
def frame1 : Quad Byte := ⟨0x01, 0x42, 0x80, 0x11⟩

/-- `S0` after `FRM_BUILD 01` (P2). -/
def built : State := { State.reset with acc := 0x1180, frame := quadFull frame1, fvalid := true }

/-- `built` with three bytes of the echo pushed. -/
def threeHeld : State := { built with resp := ⟨some 0x01, some 0x42, some 0x80, none⟩, rcnt := 3 }

/-- `built` with the exact echo pushed. -/
def echoed : State := { built with resp := quadFull frame1, rcnt := 4 }

/-- `echoed` after `CMP`. -/
def matchedState : State := { echoed with matched := true, mvalid := true }

/-- Input pins with a command word presented. -/
def presenting (w : CommandWord) : Inputs := ⟨false, true, opField w, dataField w⟩

/-- Input pins with nothing presented. -/
def quietPins : Inputs := ⟨false, false, 0, 0⟩

/-! ### Well-formedness: the one check, and a term it refuses -/

theorem test_wellFormed_golden_frame : (Instr.resetFrame 0x01 0x80 0x11).wellFormed = true := by decide +kernel

theorem test_wellFormed_refuses_swapped_checksum : (Instr.resetFrame 0x01 0x11 0x80).wellFormed = false := by decide +kernel

/-! ### Decoding, words written out bit by bit from R51, R54 and R57 -/

theorem test_decode_nop : decodeCommand 0b0000_00000000 = .ok .nop := by decide

theorem test_decode_crcInit : decodeCommand 0b0001_00000000 = .ok .crcInit := by decide

theorem test_decode_crcByte : decodeCommand 0b0010_01000010 = .ok (.crcByte 0x42) := by decide

theorem test_decode_crcRd : decodeCommand 0b0011_00000001 = .ok (.crcRd 1) := by decide

theorem test_decode_frmBuild : decodeCommand 0b0100_11111000 = .ok (.frmBuild 0xF8) := by decide

theorem test_decode_frmRd : decodeCommand 0b0101_00000010 = .ok (.frmRd 2) := by decide

theorem test_decode_rspClr : decodeCommand 0b0110_00000000 = .ok .rspClr := by decide

theorem test_decode_rspPush : decodeCommand 0b0111_00010001 = .ok (.rspPush 0x11) := by decide

theorem test_decode_cmp : decodeCommand 0b1000_00000000 = .ok .cmp := by decide

theorem test_decode_resetFrame :
    decodeWire 0b00000001_01000010_10000000_00010001 = .ok (.resetFrame 0x01 0x80 0x11) := by decide

/-- Section 5.1, one word at each edge of the four cases of R55. -/
theorem test_decode_reserved :
    decodeCommand 0x001 = .error .operandNotZero ∧ decodeCommand 0x0FF = .error .operandNotZero ∧
      decodeCommand 0x180 = .error .operandNotZero ∧ decodeCommand 0x601 = .error .operandNotZero ∧
        decodeCommand 0x801 = .error .operandNotZero ∧ decodeCommand 0x302 = .error .crcRdHighBits ∧
          decodeCommand 0x380 = .error .crcRdHighBits ∧ decodeCommand 0x504 = .error .frmRdHighBits ∧
            decodeCommand 0x5FF = .error .frmRdHighBits ∧ decodeCommand 0x900 = .error .opcodeNotDefined ∧
              decodeCommand 0xFFF = .error .opcodeNotDefined := by decide

theorem test_decode_wire_other_function : decodeWire 0x01438011 = .error .functionNotReset := by decide

theorem test_decode_wire_three_bytes : decodeWireBytes [0x01, 0x42, 0x80] = .error .wireLength := by decide

/-- The ten rows' patterns as the table numbers them. -/
theorem test_decodeTableWord :
    decodeTableWord 16 0x242 = some (.crcByte 0x42) ∧ decodeTableWord 32 0x00420000 = some (.resetFrame 0 0 0) ∧
      decodeTableWord 16 0x1242 = none := by decide

/-! ### The checksum functions -/

/-- B1 to B9. -/
theorem test_bitstep :
    bitstep 0x0000 = 0x0000 ∧ bitstep 0x0001 = 0xA001 ∧ bitstep 0x0002 = 0x0001 ∧ bitstep 0x0003 = 0xA000 ∧
      bitstep 0x8000 = 0x4000 ∧ bitstep 0xFFFF = 0xDFFE ∧ bitstep 0xA001 = 0xF001 := by decide

/-- A1, A5, A10, A13. -/
theorem test_absorb :
    absorb 0xFFFF 0x00 = 0x40BF ∧ absorb 0x0000 0x80 = 0xA001 ∧ absorb 0x1234 0x56 = 0xE993 ∧
      absorb 0xEDCB 0xA9 = 0xE96C := by decide

/-- V1, V4, V9. -/
theorem test_crc16 :
    crc16 [0x01, 0x42] = 0x1180 ∧ crc16 [0x42, 0x01] = 0xD0F0 ∧
      crc16 [0x31, 0x32, 0x33, 0x34, 0x35, 0x36, 0x37, 0x38, 0x39] = 0x4B37 := by decide +kernel

/-- Section 2.4: the serial accumulator after byte 42. -/
theorem test_serial : serial 0x807E 0x42 = 0x1180 := by decide

/-- Section 3, cells F8 and FF, as wire words. -/
theorem test_frameOf : wireWord (frameOf 0xF8) = 0xF842C241 ∧ wireWord (frameOf 0xFF) = 0xFF42C071 := by decide +kernel

/-! ### The commands, one step each -/

/-- E8. -/
theorem test_nop : exec .nop { State.reset with acc := 0x1180 } = .next { State.reset with
    acc := 0x1180, rsp := some ⟨false, 0x00⟩ } := by rfl

/-- E1. -/
theorem test_crcInit : answers (exec .crcInit { State.reset with acc := 0x1234 })
    (fun t => t.acc == 0xFFFF && t.rsp == some ⟨false, 0x00⟩) = true := by decide

/-- E7: no implicit initialisation. -/
theorem test_crcByte_continues : answers (exec (.crcByte 0x56) { State.reset with acc := 0x1234 })
    (fun t => t.acc == 0xE993) = true := by decide

/-- E4. -/
theorem test_crcRd_low : answers (exec (.crcRd 0) built) (fun t => t.rsp == some ⟨false, 0x80⟩) = true := by decide

/-- E5. -/
theorem test_crcRd_high : answers (exec (.crcRd 1) built) (fun t => t.rsp == some ⟨false, 0x11⟩) = true := by decide

/-- P3, first line, from a state with an accumulator in use. -/
theorem test_frmBuild : answers (exec (.frmBuild 0xF8) { State.reset with acc := 0x947E })
    (fun t => t.acc == 0x41C2 && t.frame == quadFull ⟨0xF8, 0x42, 0xC2, 0x41⟩ && t.fvalid) = true := by decide +kernel

/-- M14: the response is emptied and the match withdrawn. -/
theorem test_frmBuild_empties_response : answers (exec (.frmBuild 0x01) matchedState)
    (fun t => t.rcnt == 0 && t.resp == quadNone && !t.mvalid && !t.matched && t.frame == quadFull frame1) = true := by
  decide +kernel

/-- M15. -/
theorem test_frmRd : answers (exec (.frmRd 2) matchedState)
    (fun t => t.rsp == some ⟨false, 0x80⟩ && t.matched && t.mvalid) = true := by decide

/-- F4. -/
theorem test_frmRd_not_built : answers (exec (.frmRd 0) State.reset)
    (fun t => t.err && t.cause == 3 && t.rsp == some ⟨true, 0x00⟩) = true := by decide

/-- M13. -/
theorem test_rspClr : answers (exec .rspClr matchedState)
    (fun t => t.rcnt == 0 && t.resp == quadNone && !t.mvalid && !t.matched) = true := by decide

/-- M12, the push. -/
theorem test_rspPush_fourth : answers (exec (.rspPush 0x11) { threeHeld with mvalid := true })
    (fun t => t.rcnt == 4 && t.resp == quadFull frame1 && !t.mvalid) = true := by decide

/-- M17. -/
theorem test_rspPush_fifth : answers (exec (.rspPush 0x55) matchedState)
    (fun t => t == raise .respOverflow matchedState && t.cause == 2 && t.matched) = true := by decide

/-- M1. -/
theorem test_cmp_echo : answers (exec .cmp echoed) (fun t => t.matched && t.mvalid && t.rsp == some ⟨false, 0x01⟩) = true := by
  decide

/-- M5: the top bit of a byte differs. -/
theorem test_cmp_top_bit : answers (exec .cmp { echoed with resp := quadFull ⟨0x81, 0x42, 0x80, 0x11⟩ })
    (fun t => !t.matched && t.mvalid && t.rsp == some ⟨false, 0x00⟩) = true := by decide

/-- R85: the golden frame sent. -/
theorem test_resetFrame : answers (exec (.resetFrame 0x01 0x80 0x11) built)
    (fun t => t.wire == [0x01, 0x42, 0x80, 0x11] && t.frame == built.frame) = true := by decide

/-! ### Faults, steps, pins, clock -/

/-- F5: the decode fault wins; F9: the first cause is kept. -/
theorem test_fault_priority : answers (runCommand 0x504 State.reset) (fun t => t.cause == 1) = true ∧
    answers (runCommand 0x900 { State.reset with err := true, cause := 3 }) (fun t => t.cause == 3) = true := by decide

theorem test_step_runs_first_instruction : answers (step (State.reset.withFetchWord 16 0x401))
    (fun t => t.frame == quadFull frame1 && t.inputs == []) = true := by decide +kernel

/-- F11. -/
theorem test_step_reset : answers (step { matchedState with err := true, cause := 2, inputs := [.assertRst] })
    (fun t => t == State.reset) = true := by decide

/-- Z1 to Z4. -/
theorem test_statusWord :
    statusWord State.reset = 0x000 ∧ statusWord matchedState = 0x04E ∧
      statusWord { matchedState with err := true, cause := 3 } = 0x3CE ∧
        statusWord { threeHeld with mvalid := true } = 0x03A := by decide

/-- Z7: `FRM_BUILD` busy before edge 20, done at it; R78: the accumulator after edge 3 of `CRC_BYTE 01`. -/
theorem test_edges :
    answers (edges (presenting 0x401 :: List.replicate 19 quietPins) State.reset) (fun t => t.busy && !t.fvalid) = true ∧
      answers (edges (presenting 0x401 :: List.replicate 20 quietPins) State.reset) (fun t => !t.busy && t.fvalid) = true ∧
        answers (edges (presenting 0x201 :: List.replicate 3 quietPins) State.reset) (fun t => t.acc == 0x9FFE) = true := by
  decide

/-- Z5: `rst` inside `FRM_BUILD`. -/
theorem test_reset_in_command :
    answers (edges (presenting 0x401 :: quietPins :: [⟨true, false, 0, 0⟩]) State.reset) (fun t => t == State.reset) = true := by
  decide

/-- P1's first lines and a pseudo-command (R59, R62). -/
theorem test_assemble : (assembleLine "CRC_BYTE 0x42 ; second".toList) = .ok [.crcByte 0x42] ∧
    assembleLine "RSP_LOAD 1, 0b10".toList = .ok [.rspClr, .rspPush 1, .rspPush 2] ∧
      assembleLine "CRC_RD 2".toList = .error .operandRange := by decide

/-- Two lines, the first with a comment (R59), as P1 writes them. -/
theorem test_assemble_text : assemble "CRC_INIT ; -> 0x00\nCRC_BYTE 0x31\n" = .ok [.crcInit, .crcByte 0x31] := by decide +kernel

/-- What an operation ended with. -/
def ended (r : Host.Outcome Operation Fault Refusal) (p : Operation → Bool) : Bool :=
  match r with
  | .next o => p o
  | .fault _ => false
  | .refused _ => false

/-- H3: success on the third attempt, two delays. -/
theorem test_protocol_third_attempt :
    ended (resetOperation 0x01 true
        [⟨false, .bytes [0x01]⟩, ⟨false, .bytes []⟩, ⟨false, .bytes [0x01, 0x42, 0x80, 0x11]⟩] State.reset)
      (fun o => o.result == some .success && o.attempts == 3 && waitedMs o == 1000) = true := by decide +kernel

/-- H4: cancelled in the delay before attempt 2. -/
theorem test_protocol_cancelled :
    ended (resetOperation 0x01 true [⟨false, .bytes [0x01]⟩, ⟨true, .bytes []⟩] State.reset)
      (fun o => o.result == some .cancellation && !o.transportOpen && !o.block.matched && o.block.mvalid) = true := by decide

/-! ### Witnesses: the hypotheses of each statement can be met -/

theorem witness_EncodeOfDecode : decode (.command 0x242) = .ok (.crcByte 0x42) ∧
    decode (.wire 0x01428011) = .ok (.resetFrame 0x01 0x80 0x11) := by decide

theorem witness_ReservedWordsRaiseIllegalCommand : (∃ r, decodeCommand 0x900 = .error r) ∧
    (∃ r, decodeCommand 0x801 = .error r) ∧ (∃ r, decodeCommand 0x302 = .error r) ∧ ∃ r, decodeCommand 0x504 = .error r :=
  ⟨⟨_, rfl⟩, ⟨_, rfl⟩, ⟨_, rfl⟩, ⟨_, rfl⟩⟩

theorem witness_StepRunsDecodedInstruction : (State.reset.withFetchWord 16 0x600).busy = false ∧
    (State.reset.withFetchWord 16 0x600).inputs = .word (.command 0x600) :: [] ∧
      decode (.command 0x600) = .ok .rspClr := by decide

theorem witness_StepFaultsOnReservedWord : (State.reset.withFetchWord 16 0xFFF).busy = false ∧
    (State.reset.withFetchWord 16 0xFFF).inputs = .word (.command 0xFFF) :: [] ∧
      decodeCommand 0xFFF = .error .opcodeNotDefined := by decide

theorem witness_IdleBlockKeepsItsState : State.reset.busy = false ∧ State.reset.inputs = [] ∧
    ({ built with inputs := [.idle] } : State).inputs = .idle :: [] ∧ quietPins.rst = false ∧ quietPins.cmdValid = false := by
  decide

theorem witness_ResetWinsFromAnyState : (⟨true, true, 4, 1⟩ : Inputs).rst = true ∧
    answers (edge ⟨true, true, 4, 1⟩ { built with busy := true, opreg := 0x201 }) (fun t => t == State.reset) = true := by decide

theorem witness_ResetErasesThePast : built.inputs = State.reset.inputs ∧ built.wire = State.reset.wire ∧
    built ≠ State.reset ∧ (⟨true, false, 0, 0⟩ : Inputs).rst = true := by decide

theorem witness_StepKeepsInvariant : BlockInv (built.withFetchWord 16 0x711) ∧
    answers (step (built.withFetchWord 16 0x711)) (fun t => t.rcnt == 1) = true := by decide +kernel

/-- `built` with a fault recorded. -/
def builtFaulty : State := { built with err := true, cause := 3 }

/-- The states met by the invariant are more than reset's: a matched one, and one with a fault recorded. -/
theorem witness_BlockInv : BlockInv matchedState ∧ BlockInv threeHeld ∧ BlockInv builtFaulty :=
  ⟨by decide +kernel, by decide +kernel, by decide +kernel⟩

/-- A state inside `CRC_BYTE 01`, after the exclusive-or. -/
def insideCrcByte : State :=
  { State.reset with acc := 0xFFFE, busy := true, opreg := 0x201, seq := 1, inputs := [.idle] }

theorem witness_StepAlwaysCompletes : ClockInv insideCrcByte ∧ insideCrcByte.busy = true ∧
    ∀ e rest, insideCrcByte.inputs = e :: rest → meaningful e := by
  refine ⟨⟨by decide, fun _ => ⟨.inr ⟨rfl, by decide⟩, rfl⟩, fun h => by cases h⟩, rfl, ?_⟩
  intro e rest h
  cases h
  trivial

theorem witness_OnlyTheirCommandsWrite : answers (exec .crcInit built) (fun t => t.acc != built.acc) = true ∧
    answers (exec (.frmBuild 2) built) (fun t => t.frame != built.frame) = true ∧
      answers (exec (.rspPush 2) built) (fun t => t.resp != built.resp && t.rcnt != built.rcnt) = true ∧
        answers (exec .cmp built) (fun t => t.mvalid != built.mvalid) = true ∧
          answers (exec .cmp State.reset) (fun t => t.err != false) = true ∧
            answers (exec (.resetFrame 1 2 3) built) (fun t => t.wire != []) = true := by decide

theorem witness_BitstepBitByBit : (0x0001 : Acc).getLsbD 0 = true ∧ (0x0002 : Acc).getLsbD 0 = false := by decide

/-- Operand bytes that make the reserved words of R55 (b), (c), (d), at the lowest offending bit. -/
theorem witness_operand_bytes : (0x01 : Byte) ≠ 0 ∧ (0x02 : Byte).extractLsb' 1 7 ≠ (0 : BitVec 7) ∧
    (0x04 : Byte).extractLsb' 2 6 ≠ (0 : BitVec 6) := by decide

theorem witness_StreamedBytesGiveChecksum :
    (∀ i ∈ [Instr.crcByte 0x01, .nop, .cmp, .crcByte 0x42], i ≠ .crcInit ∧ ∀ a, i ≠ .frmBuild a) ∧
      answers (runAll [.crcByte 0x01, .nop, .cmp, .crcByte 0x42] State.reset) (fun t => t.acc == 0x1180) = true := by
  refine ⟨?_, by decide +kernel⟩
  simp

/-- P6. -/
theorem witness_FrmBuildReplacesChecksumInProgress :
    answers (runAll (crcMsg [0x31] ++ .frmBuild 0x01 :: [0x32].map .crcByte) State.reset) (fun t => t.acc == 0x7591) = true := by
  decide +kernel

theorem witness_FrmRdReadsBuiltFrame : built.fvalid = true ∧ built.frame = quadFull frame1 ∧ State.reset.fvalid = false := by
  decide

theorem witness_FrmSendIsTheWireFrame : BlockInv built ∧ built.fvalid = true := by decide +kernel

theorem witness_BuiltFrameIsWellFormed : frameOk State.reset ∧
    answers (runCommand 0x401 State.reset) (fun t => t.fvalid) = true ∧ frameOk built ∧
      answers (runCommand 0x800 built) (fun t => t.fvalid) = true := by decide +kernel

theorem witness_FrameImmutableBetweenBuilds : (∀ i ∈ frmSend ++ rspLoad [0x01] ++ [Instr.cmp], ∀ a, i ≠ .frmBuild a) ∧
    answers (runAll (frmSend ++ rspLoad [0x01] ++ [.cmp]) built) (fun t => t.frame == built.frame) = true := by
  refine ⟨?_, by decide⟩
  simp [frmSend, rspLoad]

theorem witness_FvalidSetAndNeverCleared : (∀ w ∈ ([0x600, 0x901] : List CommandWord), ∀ b,
      decodeCommand w ≠ .ok (.frmBuild b)) ∧
    answers (runWords [0x400 ||| (0x01 : Byte).setWidth 12, 0x600, 0x901] State.reset) (fun t => t.frame == quadFull frame1) ∧
    answers (runCommand 0x600 built) (fun t => t.fvalid) = true ∧ built.fvalid = true ∧
    answers (exec (.frmBuild 0) State.reset) (fun t => t.fvalid) = true := by decide +kernel

theorem witness_RspPushAppendsByte : built.rcnt < 4 ∧ threeHeld.rcnt < 4 ∧ echoed.rcnt = 4 := by decide

theorem witness_CmpComparesFourBytes : echoed.fvalid = true ∧ echoed.rcnt = 4 ∧ echoed.frame = quadFull frame1 ∧
    echoed.resp = quadFull frame1 ∧ threeHeld.fvalid = true ∧ threeHeld.rcnt ≠ 4 ∧ State.reset.fvalid = false := by decide

theorem witness_ShortReadIsNoMatch : threeHeld.fvalid = true ∧ threeHeld.rcnt < 4 ∧ built.fvalid = true ∧ built.rcnt < 4 := by
  decide

theorem witness_CmpIsRepeatable : answers (exec .cmp threeHeld) (fun t => t.mvalid) = true ∧ threeHeld.rcnt < 4 ∧
    answers (exec .cmp echoed) (fun t => t.matched) = true := by decide

theorem witness_MatchFlagsWithdrawn : answers (exec .rspClr matchedState) (fun t => !t.mvalid) = true ∧
    answers (exec (.rspPush 1) threeHeld) (fun t => !t.mvalid) = true ∧ threeHeld.rcnt ≠ 4 ∧
      answers (exec (.frmBuild 1) matchedState) (fun t => !t.mvalid) = true ∧
        answers (takeEvent .assertRst matchedState) (fun t => !t.mvalid) = true ∧
          answers (exec (.crcByte 0x55) matchedState) (fun t => t.mvalid) = true ∧
            answers (runCommand 0x755 matchedState) (fun t => t.rsp == some ⟨true, 0x00⟩ && t.mvalid) = true := by decide

theorem witness_OnlyEqualCmpSetsMatch : echoed.matched = false ∧ answers (runCommand 0x800 echoed) (fun t => t.matched) = true := by
  decide

theorem witness_FaultsOnlyForTheThreeCauses :
    answers (runCommand 0x001 built) (fun t => t.rsp == some ⟨true, 0x00⟩) = true ∧
      answers (runCommand 0x755 echoed) (fun t => t.rsp == some ⟨true, 0x00⟩) = true ∧
        answers (runCommand 0x500 State.reset) (fun t => t.rsp == some ⟨true, 0x00⟩) = true ∧
          answers (runCommand 0x800 State.reset) (fun t => t.rsp == some ⟨true, 0x00⟩) = true := by decide

theorem witness_DecodeFaultWins : State.reset.fvalid = false ∧ State.reset.err = false := by decide

theorem witness_FirstCauseIsKept :
    answers (runWords [0x900, 0x500, 0x401] { State.reset with err := true, cause := 3 }) (fun t => t.cause == 3) = true ∧
      answers (runWords [0x401, 0x500] State.reset) (fun t => !t.err) = true ∧
        answers (runCommand 0x800 State.reset) (fun t => t.err) = true := by decide

theorem witness_FaultRecordSteersNothing : answers (runCommand 0x800 echoed) (fun t => t.matched) = true ∧
    answers (runCommand 0x800 { echoed with err := true, cause := 2 }) (fun t => t.matched) = true := by decide

/-- The words of P2 and P3 with a checksum of the host's own first: its events, from block reset on. -/
def dutifulEvents : List HostEvent :=
  .assertRst :: (([0x231, 0x100, 0x232, 0x300, 0x401, 0x500, 0x501, 0x502, 0x503, 0x600, 0x701, 0x742, 0x800, 0x800, 0x500,
    0x600, 0x701, 0x742, 0x780, 0x711, 0x800, 0x100, 0x233] : List CommandWord).map fun w => .word (.command w))

theorem witness_DutifulHostNeverFaults : BlockInv State.reset ∧ viewHolds .atPowerUp State.reset ∧ State.reset.err = false ∧
    keepsOrder .atPowerUp dutifulEvents = true :=
  ⟨by decide, ⟨by decide, by decide, fun _ h => by cases h⟩, rfl, by decide⟩

/-- R131 by its letters: (c) no frame yet, (e) a second attempt without `RSP_CLR`, (f) a fifth byte, (g) P6's stream, (h) no
reset after power-up, and (d) a command after a fault. -/
theorem test_duties_broken :
    keepsOrder .afterReset [.word (.command 0x800)] = false ∧
      keepsOrder .afterReset ([0x401, 0x600, 0x800, 0x701].map fun w => .word (.command w)) = false ∧
        keepsOrder .afterReset ([0x600, 0x701, 0x742, 0x780, 0x711, 0x755].map fun w => .word (.command w)) = false ∧
          keepsOrder .afterReset ([0x100, 0x231, 0x401, 0x232].map fun w => .word (.command w)) = false ∧
            keepsOrder .atPowerUp [.word (.command 0x100)] = false ∧
              heedsErr [.word (.command 0x500), .word (.command 0x401)] State.reset = false ∧
                heedsErr [.word (.command 0x500), .assertRst, .word (.command 0x401)] State.reset = true := by decide +kernel

/-- R131 (a): the word held while the block is busy, and one changed too early; (b): one completion is sampled. -/
theorem test_duties_at_the_port :
    holdsWord none [presenting 0x100, presenting 0x201, presenting 0x201, quietPins] State.reset = true ∧
      holdsWord none [presenting 0x100, presenting 0x201, presenting 0x202] State.reset = false ∧
        (match observe ⟨true, 0xFF⟩ [presenting 0x301, quietPins, quietPins, quietPins] State.reset with
          | .next (_, cs) => cs == [⟨false, 0xFF⟩]
          | .fault _ => false
          | .refused _ => false) = true := by decide +kernel

theorem witness_AcceptanceAtThePort : (presenting 0x401).rst = false ∧ (presenting 0x401).cmdValid = true ∧
    quietPins.cmdValid = false ∧ built.busy = false ∧ insideCrcByte.busy = true := by decide

theorem witness_SequencerComputesCommand : quiet State.reset ∧ (presenting 0x401).rst = false ∧
    (presenting 0x401).cmdValid = true ∧ (∀ q ∈ List.replicate 20 (presenting 0xFFF), q.rst = false) ∧
      (List.replicate 20 (presenting 0xFFF)).length = latency (commandWord (presenting 0x401).cmdOp (presenting 0x401).cmdData) := by
  refine ⟨by decide, rfl, rfl, ?_, by decide⟩
  intro q hq
  rw [List.eq_of_mem_replicate hq]
  rfl

theorem witness_NothingShowsBeforeCompletion : quiet built ∧ (∀ q ∈ [quietPins, quietPins], q.rst = false) ∧
    [quietPins, quietPins].length < latency (commandWord (presenting 0x201).cmdOp (presenting 0x201).cmdData) ∧
      (presenting 0x201).rst = false ∧ (presenting 0x201).cmdValid = true := by decide

theorem witness_StrobeOnlyAfterCompletingEdge :
    answers (edges [presenting 0x000, quietPins] State.reset) (fun t => (outputs false ⟨true, 0xFF⟩ t).rspValid && !t.busy) = true ∧
      answers (edges [presenting 0x000, quietPins, quietPins] State.reset)
        (fun t => !(outputs false ⟨true, 0xFF⟩ t).rspValid) = true := by decide

theorem witness_EdgeKeepsClockInvariant : ClockInv insideCrcByte := witness_StepAlwaysCompletes.1

/-- Attempting with a block that has a fault recorded. -/
def faultyOperation : Operation := ⟨.attempting, 0, 0, 0, true, [], none, builtFaulty⟩

theorem witness_ExchangeTrueIffExactEcho : (BlockInv built ∧ built.fvalid = true ∧ built.err = false) ∧
    (BlockInv builtFaulty ∧ builtFaulty.err = true) ∧ State.reset.fvalid = false ∧ faultyOperation.counter = 0 ∧
      ended (attemptCycle ⟨false, .bytes [0x01, 0x42, 0x80, 0x11]⟩ faultyOperation)
        (fun o => o.result == some .hostFault && !o.block.err) = true :=
  ⟨by decide +kernel, by decide +kernel, rfl, rfl, by decide +kernel⟩

theorem witness_RetriesAreBounded : BlockInv State.reset ∧ (∀ b ∈ [[], [0x01], [0x02, 0x42, 0x80, 0xE1]],
    b.take 4 ≠ quadBytes (frameOf 0x01)) ∧ [([] : List Byte)].length < 3 := by decide

/-- An operation with one attempt failed. -/
def oneFailed : Operation := ⟨.attempting, 1, 1, 0, true, [], none, threeHeld⟩

theorem witness_CancellationIsNeverSuccess : oneFailed.phase = .attempting ∧ oneFailed.result = none ∧ 0 < oneFailed.counter ∧
    ended (attemptCycle ⟨true, .bytes []⟩ oneFailed) (fun o => o.result == some .cancellation) = true ∧
      ended (attemptCycle ⟨false, .cancelled⟩ oneFailed) (fun o => o.result == some .cancellation) = true ∧
        oneFailed.block.matched = false := by decide

end Sys2Proof.Tests
end

section
/-! SUPPORT. The command level seen from the host's events (O8), and the sequencer's run of one command, edge by edge, with
what a host samples of it (O54). -/

namespace Sys2Proof.Machine

open Sys2Proof.Laws.OwnRow (place)

/-! ### Events and decoding -/

/-- A word that decodes, at the port or on the wire, runs its instruction (R56, R57). -/
theorem takeEvent_word_of_decode {e : Encoded} {i : Instr} (hd : decode e = .ok i) (s : State) :
    takeEvent (.word e) s = exec i s := by
  cases e with
  | command w =>
    replace hd : decodeCommand w = .ok i := hd
    simp only [takeEvent, runCommand, hd]
  | wire w =>
    replace hd : decodeWire w = .ok i := hd
    simp only [takeEvent, runWire, hd]

/-- Between commands the step is the host's next event (R45). -/
theorem step_of_inputs_cons {s : State} {e : HostEvent} {rest : List HostEvent} (hb : s.busy = false)
    (hin : s.inputs = e :: rest) : step s = takeEvent e { s with inputs := rest } := by
  simp [step, hb, hin]

theorem withoutOperand_eq_ok {data : Byte} {i j : Instr} (h : withoutOperand data j = .ok i) : j = i := by
  unfold withoutOperand at h
  split at h
  · exact Except.ok.inj h
  · cases h

/-- A command word decodes only to the row its opcode names, so never to the wire frame (R54). -/
theorem place_of_decodeCommand {w : CommandWord} {i : Instr} (h : decodeCommand w = .ok i) :
    place i = some (opField w).toNat := by
  unfold decodeCommand at h
  dsimp only at h
  split at h
  case h_10 => cases h
  case h_4 hop | h_6 hop =>
    split at h
    · cases h; rw [hop]; rfl
    · cases h
  case h_3 hop | h_5 hop | h_8 hop => cases h; rw [hop]; rfl
  case h_1 hop | h_2 hop | h_7 hop | h_9 hop => cases withoutOperand_eq_ok h; rw [hop]; rfl

/-- A decoded command is one of the two that take several clocks, or its only edge is all of `exec` (R147). -/
theorem clocks_of_decodeCommand {w : CommandWord} {i : Instr} (hd : decodeCommand w = .ok i) :
    (∃ d, i = .crcByte d) ∨ (∃ a, i = .frmBuild a) ∨
      (latency w = 1 ∧ ∀ s : State, s.opreg = w → advance s = oneEdge i s) := by
  cases i with
  | crcByte d => exact .inl ⟨d, rfl⟩
  | frmBuild a => exact .inr (.inl ⟨a, rfl⟩)
  | resetFrame a l h => cases place_of_decodeCommand hd
  | nop | crcInit | crcRd | frmRd | rspClr | rspPush | cmp =>
    refine .inr (.inr ⟨by simp only [latency, hd, Config.latSingle], fun s hs => ?_⟩)
    simp only [advance, hs, hd]

/-- A command that answers a next state leaves a completion on the pins (R30, R52). -/
theorem exec_rsp_isSome {i : Instr} (hi : place i ≠ none) {s t : State} (h : exec i s = .next t) :
    ∃ c, t.rsp = some c := by
  cases i with
  | resetFrame a l h => exact absurd rfl hi
  | nop | crcInit | crcByte | crcRd | frmBuild | rspClr => cases h; exact ⟨_, rfl⟩
  | frmRd i =>
    obtain ⟨-, b, -, rfl⟩ | ⟨-, rfl⟩ := execFrmRd_cases h
    · exact ⟨_, rfl⟩
    · exact ⟨_, rfl⟩
  | rspPush d =>
    obtain ⟨-, rfl⟩ | ⟨-, rfl⟩ := execRspPush_cases h
    · exact ⟨_, rfl⟩
    · exact ⟨_, rfl⟩
  | cmp =>
    obtain ⟨-, -, hc⟩ | ⟨-, -, rfl⟩ | ⟨-, rfl⟩ := execCmp_cases h
    · obtain ⟨f, r, -, -, rfl⟩ := compareFull_cases hc
      exact ⟨_, rfl⟩
    · exact ⟨_, rfl⟩
    · exact ⟨_, rfl⟩

/-- Whatever an accepted word does, its completion is on the pins (R30, R106). -/
theorem runCommand_rsp_isSome {w : CommandWord} {s t : State} (h : runCommand w s = .next t) :
    ∃ c, t.rsp = some c := by
  obtain ⟨i, hd, hr⟩ | ⟨r, -, hr⟩ := runCommand_cases w s
  · have hi : place i ≠ none := by simp [place_of_decodeCommand hd]
    exact exec_rsp_isSome hi (hr.symm.trans h)
  · cases hr.symm.trans h
    exact ⟨_, rfl⟩

/-! ### A state inside a command -/

/-- `s` while the word `w` is executing: phase `q`, `k` bit steps counted, `a` in the accumulator, no strobe (R22, R31). -/
def inHand (w : CommandWord) (q : BitVec 3) (k : BitVec 4) (a : Acc) (s : State) : State :=
  { s with acc := a, busy := true, bitcnt := k, seq := q, opreg := w, rsp := none }

section
variable (w : CommandWord) (q : BitVec 3) (k : BitVec 4) (a : Acc) (s : State)

@[simp] theorem inHand_acc : (inHand w q k a s).acc = a := rfl
@[simp] theorem inHand_frame : (inHand w q k a s).frame = s.frame := rfl
@[simp] theorem inHand_resp : (inHand w q k a s).resp = s.resp := rfl
@[simp] theorem inHand_rcnt : (inHand w q k a s).rcnt = s.rcnt := rfl
@[simp] theorem inHand_fvalid : (inHand w q k a s).fvalid = s.fvalid := rfl
@[simp] theorem inHand_busy : (inHand w q k a s).busy = true := rfl
@[simp] theorem inHand_bitcnt : (inHand w q k a s).bitcnt = k := rfl
@[simp] theorem inHand_seq : (inHand w q k a s).seq = q := rfl
@[simp] theorem inHand_opreg : (inHand w q k a s).opreg = w := rfl
@[simp] theorem inHand_rsp : (inHand w q k a s).rsp = none := rfl

@[simp] theorem dropStrobe_inHand : dropStrobe (inHand w q k a s) = inHand w q k a s := rfl

@[simp] theorem xorEdge_inHand (d : Byte) : xorEdge d (inHand w q k a s) = inHand w q 0 (xorByte a d) s := rfl

@[simp] theorem bitEdge_inHand : bitEdge (inHand w q k a s) = inHand w q (k + 1) (bitstep a) s := rfl

@[simp] theorem enterPhase_inHand (q' : BitVec 3) : enterPhase q' (inHand w q k a s) = inHand w q' k a s := rfl

@[simp] theorem seedEdge_inHand : seedEdge (inHand w q k a s) = inHand w q 8 Config.crcSeed s := rfl

theorem accept_eq_inHand : accept w s = inHand w (if opField w = 4 then 1 else 0) 0 s.acc s := rfl

theorem release_raise_inHand (c : Cause) : release (raise c (inHand w q k s.acc s)) = raise c (release s) := rfl

/-- The completing edge of `CRC_BYTE` writes nothing but `ACC` (R78). -/
theorem release_complete_inHand (d : Byte) :
    release (complete d (inHand w q k a s)) = complete d (setAcc a (release s)) := rfl

/-- The completing edge of `FRM_BUILD` stores the frame (R90). -/
theorem release_storeBuilt_inHand (d : Byte) (f : Quad Byte) :
    release (complete d (storeBuilt f (inHand w q k a s))) = complete d (storeBuilt f (setAcc a (release s))) := rfl

/-- `exec` neither reads nor writes the sequencer's registers, so a command of one clock does the same with them set and
freed afterwards as with them free all along. -/
theorem oneEdge_inHand (i : Instr) : oneEdge i (inHand w q k s.acc s) = exec i (release s) := by
  cases i with
  | nop | crcInit | crcByte | crcRd | frmBuild | rspClr | resetFrame => rfl
  | frmRd i =>
    by_cases hv : s.fvalid = true
    · simp only [oneEdge, exec, execFrmRd, inHand_fvalid, inHand_frame, release_fvalid, release_frame, hv, if_true]
      cases quadAt s.frame i <;> rfl
    · simp only [oneEdge, exec, execFrmRd, inHand_fvalid, release_fvalid, hv]
      rfl
  | rspPush d =>
    by_cases h4 : s.rcnt = 4
    · simp only [oneEdge, exec, execRspPush, inHand_rcnt, release_rcnt, h4, if_true]
      rfl
    · by_cases hlt : s.rcnt < 4
      · simp only [oneEdge, exec, execRspPush, inHand_rcnt, release_rcnt, h4, hlt, if_true, if_false]
        rfl
      · simp only [oneEdge, exec, execRspPush, inHand_rcnt, release_rcnt, h4, hlt, if_false]
        rfl
  | cmp =>
    by_cases hv : s.fvalid = true
    · by_cases h4 : s.rcnt = 4
      · simp only [oneEdge, exec, execCmp, compareFull, inHand_fvalid, inHand_rcnt, inHand_frame, inHand_resp,
          release_fvalid, release_rcnt, release_frame, release_resp, hv, h4, if_true]
        cases quadAll s.frame <;> cases quadAll s.resp <;> rfl
      · simp only [oneEdge, exec, execCmp, inHand_fvalid, inHand_rcnt, release_fvalid, release_rcnt, hv, h4, if_true,
          if_false]
        rfl
    · simp only [oneEdge, exec, execCmp, inHand_fvalid, release_fvalid, hv]
      rfl
end

/-- Between commands the hidden registers are 0 already (R22). -/
theorem release_of_quiet {s : State} (h : quiet s) : release s = s := by
  obtain ⟨hb, hk, hq, ho⟩ := h
  obtain ⟨⟨⟩⟩ := s
  simp_all [release]

/-! ### Bit steps -/

theorem crcByteEdge_of_bitcnt_lt (d : Byte) {s : State} (hq : s.seq = 1) (hk : s.bitcnt < 7) :
    crcByteEdge d s = .next (bitEdge s) := by
  have hk7 : s.bitcnt ≠ 7 := by bv_omega
  have hq1 : s.seq.toNat = 1 := by rw [hq]; rfl
  simp only [crcByteEdge, hq1, if_neg hk7, if_pos hk]

theorem absorbPhase_of_bitcnt_lt (d : Byte) (q : BitVec 3) {s : State} (hk : s.bitcnt < 7) :
    absorbPhase d q s = .next (bitEdge s) := by
  have hk7 : s.bitcnt ≠ 7 := by bv_omega
  have hk8 : s.bitcnt ≠ 8 := by bv_omega
  rw [absorbPhase, if_neg hk8, if_neg hk7, if_pos hk]

/-! ### A run to the completing edge -/

/-- Over any `n` edges without reset, whatever is on the command port, the block gets to `r`; a host that samples the
completion pins while `rsp_valid = 1` sees one completion, the one `r` leaves (R30, R131 (b)). -/
def CompletesIn (n : Nat) (s : State) (r : Result) : Prop :=
  ∀ ps : List Inputs, (∀ q ∈ ps, q.rst = false) → ps.length = n →
    edges ps s = r ∧
      ∀ t, r = .next t → ∃ c, t.rsp = some c ∧ ∀ u : Completion, observe u ps s = .next (t, [c])

/-- An edge that leaves no strobe shows a sampling host nothing (R131 (b)). -/
theorem observe_cons_of_rsp_none {p : Inputs} {s t : State} (h : edge p s = .next t) (ht : t.rsp = none)
    (u : Completion) (ps : List Inputs) : observe u (p :: ps) s = observe u ps t := by
  simp only [observe, h]
  cases observe u ps t <;> simp [outputs, ht]

/-- A busy block ignores the command port (R29). -/
theorem edge_of_busy {p : Inputs} {s : State} (hp : p.rst = false) (hb : s.busy = true) :
    edge p s = advance (dropStrobe s) := by
  simp [edge, hp, hb]

theorem edge_accepts {p : Inputs} {s : State} (hp : p.rst = false) (hv : p.cmdValid = true) (hb : s.busy = false) :
    edge p s = .next (accept (commandWord p.cmdOp p.cmdData) s) := by
  simp [edge, hp, hv, hb]

/-- The completing edge. -/
theorem completesIn_one {s : State} {r : Result} (hb : s.busy = true) (hadv : advance (dropStrobe s) = r)
    (hr : ∀ t, r = .next t → ∃ c, t.rsp = some c) : CompletesIn 1 s r := by
  intro ps hps hlen
  obtain ⟨p, rfl⟩ := List.length_eq_one_iff.mp hlen
  have hedge : edge p s = r := (edge_of_busy (hps p (by simp)) hb).trans hadv
  constructor
  · rw [edges, hedge]
    cases r <;> rfl
  · intro t ht
    obtain ⟨c, hc⟩ := hr t ht
    refine ⟨c, hc, fun u => ?_⟩
    rw [observe_cons (hedge.trans ht) rfl, hc]
    rfl

/-- An edge before the completing one. -/
theorem CompletesIn.succ {n : Nat} {s t : State} {r : Result} (h : CompletesIn n t r) (hb : s.busy = true)
    (hadv : advance (dropStrobe s) = .next t) (ht : t.rsp = none) : CompletesIn (n + 1) s r := by
  intro ps hps hlen
  obtain ⟨p, ps, rfl⟩ := List.exists_cons_of_length_eq_add_one hlen
  have hedge : edge p s = .next t := (edge_of_busy (hps p (by simp)) hb).trans hadv
  obtain ⟨hrun, hseen⟩ := h ps (fun q hq => hps q (by simp [hq])) (by simpa using hlen)
  simpa only [edges, hedge, andThen_next, observe_cons_of_rsp_none hedge ht] using ⟨hrun, hseen⟩

/-- `CompletesIn.succ` between two states of one command. -/
theorem CompletesIn.inHand_succ {n : Nat} {w : CommandWord} {q q' : BitVec 3} {k k' : BitVec 4} {a a' : Acc} {s : State}
    {r : Result} (h : CompletesIn n (inHand w q' k' a' s) r)
    (hadv : advance (inHand w q k a s) = .next (inHand w q' k' a' s)) : CompletesIn (n + 1) (inHand w q k a s) r :=
  h.succ rfl hadv rfl

/-- In a phase whose edges with `BITCNT < 7` are bit steps, `n` of them lead to `BITCNT = 7` (R78, R90). -/
theorem CompletesIn.bit_steps {m : Nat} {w : CommandWord} {q : BitVec 3} {s : State} {r : Result}
    (hbit : ∀ (k : BitVec 4) (a : Acc), k < 7 → advance (inHand w q k a s) = .next (bitEdge (inHand w q k a s)))
    (n : Nat) (k : BitVec 4) (a : Acc) (hk : k.toNat + n = 7)
    (h : CompletesIn m (inHand w q 7 (bitsteps n a) s) r) : CompletesIn (m + n) (inHand w q k a s) r := by
  induction n generalizing k a with
  | zero =>
    obtain rfl : k = 7 := by bv_omega
    exact h
  | succ n ih =>
    have hnext : CompletesIn (m + n) (inHand w q (k + 1) (bitstep a) s) r := ih (k + 1) (bitstep a) (by bv_omega) h
    exact hnext.inHand_succ (hbit k a (by bv_omega))

/-! ### The commands clock by clock -/

/-- A command of one clock (R147). -/
theorem completesIn_oneEdge {w : CommandWord} {i : Instr} (hd : decodeCommand w = .ok i)
    (hadv : ∀ s : State, s.opreg = w → advance s = oneEdge i s) (q : BitVec 3) (k : BitVec 4) (s : State) :
    CompletesIn 1 (inHand w q k s.acc s) (runCommand w (release s)) := by
  refine completesIn_one rfl ?_ fun t => runCommand_rsp_isSome
  simp only [dropStrobe_inHand, hadv (inHand w q k s.acc s) rfl, oneEdge_inHand, runCommand, hd]

/-- A reserved word completes with its fault in one clock (R147). -/
theorem completesIn_reserved {w : CommandWord} {e : DecodeReject} (hd : decodeCommand w = .error e) (q : BitVec 3)
    (k : BitVec 4) (s : State) : CompletesIn 1 (inHand w q k s.acc s) (runCommand w (release s)) := by
  refine completesIn_one rfl ?_ fun t => runCommand_rsp_isSome
  simp only [dropStrobe_inHand, advance, inHand_opreg, runCommand, hd, release_raise_inHand]

/-- `CRC_BYTE`: the exclusive-or, then eight bit steps (R78). -/
theorem completesIn_crcByte {w : CommandWord} {d : Byte} (hd : decodeCommand w = .ok (.crcByte d)) (s : State) :
    CompletesIn 9 (inHand w 0 0 s.acc s) (runCommand w (release s)) := by
  have hadv (q k a) : advance (inHand w q k a s) = crcByteEdge d (inHand w q k a s) := by
    simp only [advance, inHand_opreg, hd]
  have hlast : CompletesIn 1 (inHand w 1 7 (bitsteps 7 (xorByte s.acc d)) s) (runCommand w (release s)) := by
    refine completesIn_one rfl ?_ fun t => runCommand_rsp_isSome
    simp [hadv, crcByteEdge, runCommand, hd, exec, execCrcByte, release_complete_inHand, absorb_eq,
      ← bitsteps_succ_outer]
  have hbits : CompletesIn 8 (inHand w 1 0 (xorByte s.acc d) s) (runCommand w (release s)) := by
    refine hlast.bit_steps (fun k a hk => ?_) 7 0 _ rfl
    rw [hadv, crcByteEdge_of_bitcnt_lt d rfl hk]
  exact hbits.inHand_succ (by simp [hadv, crcByteEdge])

/-- A phase of `FRM_BUILD` that absorbs a byte: nine edges from `BITCNT = 8` to `BITCNT = 8` (R90). -/
theorem CompletesIn.absorb_phase {m : Nat} {w : CommandWord} {q q' : BitVec 3} {d : Byte} {a : Acc} {s : State} {r : Result}
    (hadv : ∀ k a, advance (inHand w q k a s) = absorbPhase d q' (inHand w q k a s))
    (h : CompletesIn m (inHand w q' 8 (absorb a d) s) r) : CompletesIn (m + 9) (inHand w q 8 a s) r := by
  have hlast : CompletesIn (m + 1) (inHand w q 7 (bitsteps 7 (xorByte a d)) s) r := by
    rw [absorb_eq, bitsteps_succ_outer] at h
    exact h.inHand_succ (by simp [hadv, absorbPhase])
  have hbits : CompletesIn (m + 1 + 7) (inHand w q 0 (xorByte a d) s) r := by
    refine hlast.bit_steps (fun k a hk => ?_) 7 0 _ rfl
    rw [hadv, absorbPhase_of_bitcnt_lt d q' hk]
  exact hbits.inHand_succ (by simp [hadv, absorbPhase])

/-- `FRM_BUILD`: the seed, the address, the function code, the store (R90). -/
theorem completesIn_frmBuild {w : CommandWord} {a : Byte} (hd : decodeCommand w = .ok (.frmBuild a)) (s : State) :
    CompletesIn 20 (inHand w 1 0 s.acc s) (runCommand w (release s)) := by
  have hadv (q k x) : advance (inHand w q k x s) = frmBuildEdge a (inHand w q k x s) := by
    simp only [advance, inHand_opreg, hd]
  have hstore : CompletesIn 1 (inHand w 4 8 (crc16 [a, Config.funcReset]) s) (runCommand w (release s)) := by
    refine completesIn_one rfl ?_ fun t => runCommand_rsp_isSome
    simp [hadv, frmBuildEdge, runCommand, hd, exec, execFrmBuild, release_storeBuilt_inHand, frameOf]
  have hfunc : CompletesIn 10 (inHand w 3 8 (absorb Config.crcSeed a) s) (runCommand w (release s)) :=
    hstore.absorb_phase fun k x => hadv 3 k x
  have haddr : CompletesIn 19 (inHand w 2 8 Config.crcSeed s) (runCommand w (release s)) :=
    hfunc.absorb_phase fun k x => hadv 2 k x
  exact haddr.inHand_succ (by simp [hadv, frmBuildEdge])

/-- From acceptance every word completes in its `LAT`, with what it does at the command level (R146, R147). -/
theorem completesIn_latency (w : CommandWord) (s : State) :
    CompletesIn (latency w) (accept w s) (runCommand w (release s)) := by
  rw [accept_eq_inHand]
  cases hd : decodeCommand w with
  | error e =>
    have hlat : latency w = 1 := by simp only [latency, hd, Config.latSingle]
    rw [hlat]
    exact completesIn_reserved hd _ _ s
  | ok i =>
    have hop := place_of_decodeCommand hd
    obtain ⟨d, rfl⟩ | ⟨a, rfl⟩ | ⟨hlat, hadv⟩ := clocks_of_decodeCommand hd
    · have hop4 : opField w ≠ 4 := by
        intro h4
        simp [place, h4] at hop
      have hlat : latency w = 9 := by simp only [latency, hd, Config.latCrcByte]
      rw [hlat, if_neg hop4]
      exact completesIn_crcByte hd s
    · have hop4 : opField w = 4 := BitVec.eq_of_toNat_eq (Option.some.inj hop).symm
      have hlat : latency w = 20 := by simp only [latency, hd, Config.latFrmBuild]
      rw [hlat, if_pos hop4]
      exact completesIn_frmBuild hd s
    · rw [hlat]
      exact completesIn_oneEdge hd hadv _ _ s

/-! ### The obligations -/

/-- Settles O8: the step takes the head of the events, and a word that decodes runs its instruction. -/
theorem stepRunsDecodedInstruction : Obligations.StepRunsDecodedInstruction := by
  intro s e rest i hb hin hd
  rw [step_of_inputs_cons hb hin, takeEvent_word_of_decode hd]

/-- Settles O54: the accepting edge shows the host nothing, and from there the word completes in its `LAT`. -/
theorem sequencerComputesCommand : Obligations.SequencerComputesCommand := by
  intro p ps s hq hp hv hps hlen
  have haccept := edge_accepts hp hv hq.1
  have hrun := completesIn_latency (commandWord p.cmdOp p.cmdData) s ps hps hlen
  rw [release_of_quiet hq] at hrun
  simpa only [edges, haccept, andThen_next, observe_cons_of_rsp_none haccept (accept_rsp _ _)] using hrun

end Sys2Proof.Machine
end

section
/-! SUPPORT. What an instruction and an accepted word can do, said once, and what follows for each element of the state: who writes
it (O17), the frame (O35, O36), the match flags (O43, O44) and the fault record (O49, O50). -/

namespace Sys2Proof.Machine

/-! ### What an instruction can do -/

/-- Everything an instruction can do when it answers a next state: one rule per completion and per fault. -/
inductive Effect (s : State) : Instr → State → Prop where
  | nop : Effect s .nop (complete 0x00 s)
  | crcInit : Effect s .crcInit (complete 0x00 (setAcc Config.crcSeed s))
  | crcByte (d : Byte) : Effect s (.crcByte d) (complete 0x00 (setAcc (absorb s.acc d) s))
  | crcRd (sel : BitVec 1) : Effect s (.crcRd sel) (complete (if sel = 0 then lo s.acc else hi s.acc) s)
  | frmBuild (a : Byte) :
      Effect s (.frmBuild a) (complete 0x00 (storeBuilt (frameOf a) (setAcc (crc16 [a, Config.funcReset]) s)))
  | frmRd {i : BitVec 2} {b : Byte} (hv : s.fvalid = true) (hb : quadAt s.frame i = some b) :
      Effect s (.frmRd i) (complete b s)
  | frmRdFault (i : BitVec 2) (hv : s.fvalid = false) : Effect s (.frmRd i) (raise .frameNotBuilt s)
  | rspClr : Effect s .rspClr (complete 0x00 (clearMatch (emptyResp s)))
  | rspPush (d : Byte) (hlt : s.rcnt < 4) : Effect s (.rspPush d) (complete 0x00 (clearMatch (pushByte d s)))
  | rspPushFault (d : Byte) (h4 : s.rcnt = 4) : Effect s (.rspPush d) (raise .respOverflow s)
  | cmpFull {f r : Quad Byte} (hv : s.fvalid = true) (h4 : s.rcnt = 4) (hf : s.frame = quadFull f)
      (hr : s.resp = quadFull r) : Effect s .cmp (complete (matchByte (eq4 f r)) (setMatch (eq4 f r) s))
  | cmpShort (hv : s.fvalid = true) (h4 : s.rcnt ≠ 4) : Effect s .cmp (complete (matchByte false) (setMatch false s))
  | cmpFault (hv : s.fvalid = false) : Effect s .cmp (raise .frameNotBuilt s)
  | resetFrame (a l h : Byte) : Effect s (.resetFrame a l h) (sendBytes [a, Config.funcReset, l, h] s)

theorem effect_of_exec {i : Instr} {s t : State} (h : exec i s = .next t) : Effect s i t := by
  cases i with
  | nop | crcInit | crcByte | crcRd | frmBuild | rspClr | resetFrame => cases h; constructor
  | frmRd i =>
    obtain ⟨hv, b, hb, rfl⟩ | ⟨hv, rfl⟩ := execFrmRd_cases h
    · exact .frmRd hv hb
    · exact .frmRdFault i hv
  | rspPush d =>
    obtain ⟨h4, rfl⟩ | ⟨hlt, rfl⟩ := execRspPush_cases h
    · exact .rspPushFault d h4
    · exact .rspPush d hlt
  | cmp =>
    obtain ⟨hv, h4, hc⟩ | ⟨hv, h4, rfl⟩ | ⟨hv, rfl⟩ := execCmp_cases h
    · obtain ⟨f, r, hf, hr, rfl⟩ := compareFull_cases hc
      exact .cmpFull hv h4 hf hr
    · exact .cmpShort hv h4
    · exact .cmpFault hv

theorem exec_eq_next_iff {i : Instr} {s t : State} : exec i s = .next t ↔ Effect s i t := by
  refine ⟨effect_of_exec, fun h => ?_⟩
  cases h with
  | nop | crcInit | crcByte | crcRd | frmBuild | rspClr | resetFrame => rfl
  | frmRd hv hb => simp [exec, execFrmRd, hv, hb]
  | frmRdFault i hv => simp [exec, execFrmRd, hv]
  | rspPush d hlt =>
    have h4 : s.rcnt ≠ 4 := by bv_omega
    simp only [exec, execRspPush, if_neg h4, if_pos hlt]
  | rspPushFault d h4 => simp [exec, execRspPush, h4]
  | cmpFull hv h4 hf hr => simp [exec, execCmp, compareFull, hv, h4, hf, hr]
  | cmpShort hv h4 => simp only [exec, execCmp, if_pos hv, if_neg h4]
  | cmpFault hv => simp [exec, execCmp, hv]

/-- An accepted word has the effect of its instruction, or is reserved and raises `IllegalCommand` (R55, R56). -/
theorem runCommand_eq_next_iff {w : CommandWord} {s t : State} :
    runCommand w s = .next t ↔
      (∃ i, decodeCommand w = .ok i ∧ Effect s i t) ∨
        ((∃ r, decodeCommand w = .error r) ∧ t = raise .illegalCommand s) := by
  unfold runCommand
  cases decodeCommand w with
  | ok i => simp [exec_eq_next_iff]
  | error r => simp [eq_comm]

/-! ### What each element is written by (R13) -/

section
variable {i : Instr} {s t : State}

/-- A command takes a fault, or leaves the fault record as it is and completes with `err = 0` (R20, R106). -/
theorem Effect.raises_or_keeps_record (h : Effect s i t) :
    (∃ c, t = raise c s) ∨ (t.err = s.err ∧ t.cause = s.cause ∧ t.rsp ≠ some ⟨true, 0x00⟩) := by
  cases h with
  | frmRdFault | rspPushFault | cmpFault => exact .inl ⟨_, rfl⟩
  | nop | crcInit | crcByte | crcRd | frmBuild | frmRd | rspClr | rspPush | cmpFull | cmpShort | resetFrame =>
    exact .inr ⟨rfl, rfl, by simp⟩

theorem Effect.acc_written_by (h : Effect s i t) :
    t.acc = s.acc ∨ i = .crcInit ∨ (∃ d, i = .crcByte d) ∨ ∃ a, i = .frmBuild a := by
  cases h with
  | crcInit | crcByte | frmBuild => simp
  | nop | crcRd | frmRd | frmRdFault | rspClr | rspPush | rspPushFault | cmpFull | cmpShort | cmpFault | resetFrame =>
    exact .inl rfl

theorem Effect.frame_written_by (h : Effect s i t) :
    (t.frame = s.frame ∧ t.fvalid = s.fvalid) ∨ ∃ a, i = .frmBuild a := by
  cases h with
  | frmBuild => simp
  | nop | crcInit | crcByte | crcRd | frmRd | frmRdFault | rspClr | rspPush | rspPushFault | cmpFull | cmpShort
  | cmpFault | resetFrame => exact .inl ⟨rfl, rfl⟩

theorem Effect.resp_written_by (h : Effect s i t) :
    (t.resp = s.resp ∧ t.rcnt = s.rcnt) ∨ (∃ d, i = .rspPush d) ∨ i = .rspClr ∨ ∃ a, i = .frmBuild a := by
  cases h with
  | frmBuild | rspClr | rspPush => simp
  | nop | crcInit | crcByte | crcRd | frmRd | frmRdFault | rspPushFault | cmpFull | cmpShort | cmpFault | resetFrame =>
    exact .inl ⟨rfl, rfl⟩

theorem Effect.match_written_by (h : Effect s i t) :
    (t.mvalid = s.mvalid ∧ t.matched = s.matched) ∨
      i = .cmp ∨ (∃ d, i = .rspPush d) ∨ i = .rspClr ∨ ∃ a, i = .frmBuild a := by
  cases h with
  | frmBuild | rspClr | rspPush | cmpFull | cmpShort => simp
  | nop | crcInit | crcByte | crcRd | frmRd | frmRdFault | rspPushFault | cmpFault | resetFrame => exact .inl ⟨rfl, rfl⟩

theorem Effect.wire_written_by (h : Effect s i t) : t.wire = s.wire ∨ ∃ a l h, i = .resetFrame a l h := by
  cases h with
  | resetFrame => simp
  | nop | crcInit | crcByte | crcRd | frmBuild | frmRd | frmRdFault | rspClr | rspPush | rspPushFault | cmpFull | cmpShort
  | cmpFault => exact .inl rfl

/-- No command touches the sequencer's registers or the host's events. -/
theorem Effect.hidden_kept (h : Effect s i t) :
    t.busy = s.busy ∧ t.bitcnt = s.bitcnt ∧ t.seq = s.seq ∧ t.opreg = s.opreg ∧ t.inputs = s.inputs := by
  cases h <;> exact ⟨rfl, rfl, rfl, rfl, rfl⟩

end

/-- Settles O17: the clauses are R13's column, element by element. -/
theorem onlyTheirCommandsWrite : Obligations.OnlyTheirCommandsWrite := by
  intro i s t h
  have he := effect_of_exec h
  refine ⟨fun hne => ?_, fun hne => ?_, fun hne => ?_, fun hne => ?_, fun hne => ?_, fun hne => ?_, he.hidden_kept⟩
  · exact he.acc_written_by.resolve_left hne
  · exact he.frame_written_by.resolve_left fun ⟨hf, hv⟩ => hne.elim (· hf) (· hv)
  · exact he.resp_written_by.resolve_left fun ⟨hr, hn⟩ => hne.elim (· hr) (· hn)
  · exact he.match_written_by.resolve_left fun ⟨hv, hm⟩ => hne.elim (· hv) (· hm)
  · obtain ⟨c, rfl⟩ | ⟨herr, hcause, -⟩ := he.raises_or_keeps_record
    · rfl
    · exact (hne.elim (· herr) (· hcause)).elim
  · exact he.wire_written_by.resolve_left hne

/-! ### Words -/

@[simp] theorem opField_commandWord (op : BitVec 4) (d : Byte) : opField (commandWord op d) = op :=
  BitVec.extractLsb'_append_eq_left

@[simp] theorem dataField_commandWord (op : BitVec 4) (d : Byte) : dataField (commandWord op d) = d :=
  BitVec.extractLsb'_append_eq_right

/-- A word is its opcode and its operand byte (R51). -/
theorem commandWord_opField_dataField (w : CommandWord) : commandWord (opField w) (dataField w) = w := by
  simp only [commandWord, opField, dataField]
  rw [BitVec.extractLsb'_append_extractLsb'_eq_extractLsb' (by omega)]
  simp

theorem decodeCommand_of_opField_four {w : CommandWord} (h : opField w = 4) :
    decodeCommand w = .ok (.frmBuild (dataField w)) := by
  simp [decodeCommand, h]

theorem decodeCommand_frmBuild_word (a : Byte) : decodeCommand (0x400 ||| a.setWidth 12) = .ok (.frmBuild a) := by
  have hw : (0x400 ||| a.setWidth 12 : CommandWord) = commandWord 4 a := by
    rw [commandWord, BitVec.append_def, BitVec.setWidth'_eq]
    rfl
  rw [hw, decodeCommand_of_opField_four (opField_commandWord 4 a), dataField_commandWord]

theorem withoutOperand_ok_data {data : Byte} {i j : Instr} (h : withoutOperand data j = .ok i) : data = 0 := by
  unfold withoutOperand at h
  split at h
  · assumption
  · cases h

/-- `0x800` is the only word of `CMP` (R54). -/
theorem eq_of_decodeCommand_cmp {w : CommandWord} (hd : decodeCommand w = .ok .cmp) : w = 0x800 := by
  have hop : opField w = 8 := BitVec.eq_of_toNat_eq (Option.some.inj (place_of_decodeCommand hd)).symm
  have hdata : dataField w = 0 := by
    simp only [decodeCommand, hop] at hd
    exact withoutOperand_ok_data hd
  rw [← commandWord_opField_dataField w, hop, hdata]
  rfl

theorem eq4_eq_true_iff {f r : Quad Byte} : eq4 f r = true ↔ f = r := by
  cases f
  cases r
  simp [eq4, and_assoc]

/-! ### Sequences of words -/

/-- What every word of a sequence keeps, the sequence keeps. -/
theorem runWords_keeps {P : State → Prop} {ws : List CommandWord}
    (hstep : ∀ w ∈ ws, ∀ u v, P u → runCommand w u = .next v → P v) {s t : State} (hs : P s)
    (h : runWords ws s = .next t) : P t := by
  induction ws generalizing s with
  | nil => cases h; exact hs
  | cons w ws ih =>
    obtain ⟨u, hu, ht⟩ := andThen_eq_next h
    exact ih (fun x hx => hstep x (by simp [hx])) (hstep w (by simp) s u hs hu) ht

/-! ### The frame (R18, R33) -/

/-- A word that is no `FRM_BUILD` leaves the frame (R33). -/
theorem runCommand_keeps_frame {w : CommandWord} {s t : State} (hw : ∀ b, decodeCommand w ≠ .ok (.frmBuild b))
    (h : runCommand w s = .next t) : t.frame = s.frame ∧ t.fvalid = s.fvalid := by
  obtain ⟨i, hd, he⟩ | ⟨-, rfl⟩ := runCommand_eq_next_iff.mp h
  · exact he.frame_written_by.resolve_right fun ⟨a, ha⟩ => hw a (ha ▸ hd)
  · exact ⟨rfl, rfl⟩

/-- Settles O35: each of the commands leaves the frame, so the sequence does. -/
theorem frameImmutableBetweenBuilds : Obligations.FrameImmutableBetweenBuilds := by
  intro is s t hno h
  induction is generalizing s with
  | nil => cases h; exact ⟨rfl, rfl⟩
  | cons i is ih =>
    obtain ⟨u, hu, ht⟩ := andThen_eq_next h
    obtain ⟨hframe, hfvalid⟩ : u.frame = s.frame ∧ u.fvalid = s.fvalid :=
      (effect_of_exec hu).frame_written_by.resolve_right fun ⟨a, ha⟩ => hno i (by simp) a ha
    rw [← hframe, ← hfvalid]
    exact ih u (fun j hj => hno j (by simp [hj])) ht

/-- Settles O36: `FRM_BUILD` stores its frame and sets `FVALID`, and every other word leaves both. -/
theorem fvalidSetAndNeverCleared : Obligations.FvalidSetAndNeverCleared := by
  have hbuild (a : Byte) (s t : State) (h : exec (.frmBuild a) s = .next t) :
      t.fvalid = true ∧ t.frame = quadFull (frameOf a) := by
    cases h
    exact ⟨rfl, rfl⟩
  refine ⟨rfl, hbuild, fun w s t h hv => ?_, fun a ws s t hws h => ?_⟩
  · by_cases hw : ∃ b, decodeCommand w = .ok (.frmBuild b)
    · obtain ⟨b, hb⟩ := hw
      simp only [runCommand, hb] at h
      exact (hbuild b s t h).1
    · exact (runCommand_keeps_frame (not_exists.mp hw) h).2.trans hv
  · obtain ⟨u, hu, ht⟩ := andThen_eq_next h
    simp only [runCommand, decodeCommand_frmBuild_word] at hu
    refine runWords_keeps (P := fun u => u.fvalid = true ∧ u.frame = quadFull (frameOf a)) ?_ (hbuild a s u hu) ht
    intro w hw x y hx hxy
    obtain ⟨hframe, hfvalid⟩ := runCommand_keeps_frame (hws w hw) hxy
    rwa [hframe, hfvalid]

/-! ### The match flags (R19, R99, R100) -/

/-- Settles O43: three commands and reset clear both flags, five commands and every fault leave them. -/
theorem matchFlagsWithdrawn : Obligations.MatchFlagsWithdrawn := by
  refine ⟨fun s t h => ?_, fun d s t h hne => ?_, fun a s t h => ?_, fun s t h => ?_, fun i s t h hi => ?_,
    fun w s t h hrsp => ?_⟩
  · cases h
    exact ⟨rfl, rfl⟩
  · cases effect_of_exec h with
    | rspPush d hlt => exact ⟨rfl, rfl⟩
    | rspPushFault d h4 => exact absurd h4 hne
  · cases h
    exact ⟨rfl, rfl⟩
  · cases h
    exact ⟨rfl, rfl⟩
  · refine (effect_of_exec h).match_written_by.resolve_right ?_
    obtain rfl | rfl | ⟨d, rfl⟩ | ⟨b, rfl⟩ | ⟨n, rfl⟩ := hi <;> simp
  · obtain ⟨i, -, he⟩ | ⟨-, rfl⟩ := runCommand_eq_next_iff.mp h
    · obtain ⟨c, rfl⟩ | ⟨-, -, hne⟩ := he.raises_or_keeps_record
      · exact ⟨rfl, rfl⟩
      · exact absurd hrsp hne
    · exact ⟨rfl, rfl⟩

/-- `MATCH` rises only by a `CMP` of two equal full buffers (R100). -/
theorem Effect.match_rises {i : Instr} {s t : State} (h : Effect s i t) (hs : s.matched = false) (ht : t.matched = true) :
    i = .cmp ∧ s.fvalid = true ∧ s.rcnt = 4 ∧ s.resp = s.frame ∧ t.rsp = some ⟨false, 0x01⟩ := by
  cases h with
  | cmpFull hv h4 hf hr =>
    replace ht : eq4 _ _ = true := ht
    obtain rfl := eq4_eq_true_iff.mp ht
    exact ⟨rfl, hv, h4, hr.trans hf.symm, by rw [ht]; rfl⟩
  | frmBuild | rspClr | rspPush | cmpShort => cases ht
  | nop | crcInit | crcByte | crcRd | frmRd | frmRdFault | rspPushFault | cmpFault | resetFrame =>
    exact absurd (hs.symm.trans ht) (by decide)

/-- Settles O44: the flag rises by the effect of `CMP` alone, and `CMP` has one word. -/
theorem onlyEqualCmpSetsMatch : Obligations.OnlyEqualCmpSetsMatch := by
  intro w s t h hs ht
  obtain ⟨i, hd, he⟩ | ⟨-, rfl⟩ := runCommand_eq_next_iff.mp h
  · obtain ⟨rfl, hrest⟩ := he.match_rises hs ht
    exact ⟨eq_of_decodeCommand_cmp hd, hrest⟩
  · exact absurd (hs.symm.trans ht) (by decide)

/-! ### The fault record (R20, R111, R113) -/

/-- A word takes a fault or leaves the fault record as it is (R106). -/
theorem runCommand_raises_or_keeps_record {w : CommandWord} {s t : State} (h : runCommand w s = .next t) :
    (∃ c, t = raise c s) ∨ (t.err = s.err ∧ t.cause = s.cause) := by
  obtain ⟨i, -, he⟩ | ⟨-, rfl⟩ := runCommand_eq_next_iff.mp h
  · exact he.raises_or_keeps_record.imp_right fun ⟨herr, hcause, _⟩ => ⟨herr, hcause⟩
  · exact .inl ⟨_, rfl⟩

/-- From `s` to `t` a record that stood was kept, and none that is absent now was cleared (R20, R113). -/
def recordKept (s t : State) : Prop :=
  (s.err = true → t.err = true ∧ t.cause = s.cause) ∧ (t.err = false → s.err = false ∧ t.cause = s.cause)

theorem recordKept_refl (s : State) : recordKept s s := ⟨fun h => ⟨h, rfl⟩, fun h => ⟨h, rfl⟩⟩

theorem recordKept_runCommand {w : CommandWord} {s u v : State} (hu : recordKept s u) (h : runCommand w u = .next v) :
    recordKept s v := by
  obtain ⟨c, rfl⟩ | ⟨herr, hcause⟩ := runCommand_raises_or_keeps_record h
  · refine ⟨fun hs => ?_, fun hv => by cases hv⟩
    obtain ⟨herr, hcause⟩ := hu.1 hs
    exact ⟨rfl, by simp [herr, hcause]⟩
  · simpa only [recordKept, herr, hcause] using hu

/-- Settles O49: every word keeps the record, and the one that sets `ERR` took a fault. -/
theorem firstCauseIsKept : Obligations.FirstCauseIsKept := by
  refine ⟨fun ws s t h => ?_, fun w s t h hs ht => ?_⟩
  · exact runWords_keeps (P := recordKept s) (fun w _ u v => recordKept_runCommand) (recordKept_refl s) h
  · obtain ⟨c, rfl⟩ | ⟨herr, -⟩ := runCommand_raises_or_keeps_record h
    · exact ⟨c, rfl, by simp [hs]⟩
    · exact absurd (hs.symm.trans (herr.symm.trans ht)) (by decide)

/-- `s` with another fault record. -/
def withRecord (e : Bool) (c : BitVec 2) (s : State) : State := { s with err := e, cause := c }

/-- The same command has the same effect beside any fault record, but on the record itself (R111). -/
theorem Effect.withRecord {i : Instr} {s t : State} (h : Effect s i t) (e : Bool) (c : BitVec 2) :
    ∃ t', Effect (withRecord e c s) i t' ∧ Machine.withRecord t.err t.cause t' = t := by
  cases h with
  | nop => exact ⟨_, .nop, rfl⟩
  | crcInit => exact ⟨_, .crcInit, rfl⟩
  | crcByte d => exact ⟨_, .crcByte d, rfl⟩
  | crcRd sel => exact ⟨_, .crcRd sel, rfl⟩
  | frmBuild a => exact ⟨_, .frmBuild a, rfl⟩
  | frmRd hv hb => exact ⟨_, .frmRd hv hb, rfl⟩
  | frmRdFault i hv => exact ⟨_, .frmRdFault i hv, rfl⟩
  | rspClr => exact ⟨_, .rspClr, rfl⟩
  | rspPush d hlt => exact ⟨_, .rspPush d hlt, rfl⟩
  | rspPushFault d h4 => exact ⟨_, .rspPushFault d h4, rfl⟩
  | cmpFull hv h4 hf hr => exact ⟨_, .cmpFull hv h4 hf hr, rfl⟩
  | cmpShort hv h4 => exact ⟨_, .cmpShort hv h4, rfl⟩
  | cmpFault hv => exact ⟨_, .cmpFault hv, rfl⟩
  | resetFrame a l h => exact ⟨_, .resetFrame a l h, rfl⟩

/-- Settles O50: no premise of an effect reads the fault record. -/
theorem faultRecordSteersNothing : Obligations.FaultRecordSteersNothing := by
  intro w s t e c h
  obtain ⟨i, hd, he⟩ | ⟨hr, rfl⟩ := runCommand_eq_next_iff.mp h
  · obtain ⟨t', he', ht'⟩ := he.withRecord e c
    exact ⟨t', runCommand_eq_next_iff.mpr (.inl ⟨i, hd, he'⟩), ht'⟩
  · exact ⟨_, runCommand_eq_next_iff.mpr (.inr ⟨hr, rfl⟩), rfl⟩

end Sys2Proof.Machine
end

section
/-! SUPPORT. The invariant of R32: each operation keeps it, so each step does (O15); and in its states every command answers. -/

namespace Sys2Proof.Machine

/-! ### The invariant of R32, operation by operation -/

section
variable (s : State)

theorem archOk_blockReset : archOk (blockReset s) := by
  simp [archOk, frameOk, respOk, matchOk, causeOk, quadNone]

variable {s}

/-- A fault entry keeps the buffers and flags, and records a code that is not 0 (R20, R105, R106). -/
theorem archOk_raise (c : Cause) (h : archOk s) : archOk (raise c s) := by
  obtain ⟨hframe, hresp, hmatch, hcause⟩ := h
  refine ⟨hframe, hresp, hmatch, ?_⟩
  cases herr : s.err
  · cases c <;> simp [causeOk, herr, causeCode]
  · simpa [causeOk, herr] using hcause

/-- A built frame is the frame of its address, beside an empty response (R82). -/
theorem archOk_storeBuilt (a : Byte) (h : archOk s) : archOk (storeBuilt (frameOf a) s) := by
  obtain ⟨-, -, -, hcause⟩ := h
  refine ⟨?_, ?_, ?_, hcause⟩
  · exact ⟨fun _ => rfl, fun hv => by cases hv⟩
  · simp [respOk, quadNone]
  · simp [matchOk]

theorem archOk_emptyResp (h : archOk s) : archOk (clearMatch (emptyResp s)) := by
  obtain ⟨hframe, -, -, hcause⟩ := h
  refine ⟨hframe, ?_, ?_, hcause⟩
  · simp [respOk, quadNone]
  · simp [matchOk]

/-- A push below four bytes fills exactly the next one (R16, R37). -/
theorem respOk_pushByte (d : Byte) (hlt : s.rcnt < 4) (h : respOk s) : respOk (pushByte d s) := by
  obtain ⟨-, h0, h1, h2, h3⟩ := h
  obtain hn | hn | hn | hn : s.rcnt = 0 ∨ s.rcnt = 1 ∨ s.rcnt = 2 ∨ s.rcnt = 3 := by bv_omega
  all_goals
    rw [hn] at h0 h1 h2 h3
    simp_all [respOk, quadPut]

theorem archOk_pushByte (d : Byte) (hlt : s.rcnt < 4) (h : archOk s) : archOk (clearMatch (pushByte d s)) := by
  obtain ⟨hframe, hresp, -, hcause⟩ := h
  refine ⟨hframe, respOk_pushByte d hlt hresp, ?_, hcause⟩
  simp [matchOk]

/-- A comparison result needs a frame, and a match the four equal bytes (R32 (b) to (d)). -/
theorem archOk_setMatch {m : Bool} (hv : s.fvalid = true) (hm : m = true → s.rcnt = 4 ∧ s.resp = s.frame)
    (h : archOk s) : archOk (setMatch m s) := by
  obtain ⟨hframe, hresp, -, hcause⟩ := h
  exact ⟨hframe, hresp, ⟨fun _ => rfl, fun _ => hv, hm⟩, hcause⟩

end

/-- Every command keeps R32 (a) to (f). -/
theorem Effect.archOk {i : Instr} {s t : State} (h : Effect s i t) (hs : archOk s) : Machine.archOk t := by
  cases h with
  | nop | crcInit | crcByte | crcRd | frmRd | resetFrame => exact hs
  | frmRdFault | rspPushFault | cmpFault => exact archOk_raise _ hs
  | frmBuild a => exact archOk_storeBuilt (s := setAcc _ s) a hs
  | rspClr => exact archOk_emptyResp hs
  | rspPush d hlt => exact archOk_pushByte d hlt hs
  | cmpFull hv h4 hf hr =>
    exact archOk_setMatch hv (fun hm => ⟨h4, by rw [hr, hf, eq4_eq_true_iff.mp hm]⟩) hs
  | cmpShort hv h4 => exact archOk_setMatch hv (fun hm => by cases hm) hs

theorem Effect.quiet {i : Instr} {s t : State} (h : Effect s i t) (hs : quiet s) : Machine.quiet t := by
  obtain ⟨hbusy, hbitcnt, hseq, hopreg, -⟩ := h.hidden_kept
  simpa only [Machine.quiet, hbusy, hbitcnt, hseq, hopreg] using hs

theorem blockInv_blockReset (s : State) : BlockInv (blockReset s) := ⟨archOk_blockReset s, rfl, rfl, rfl, rfl⟩

theorem blockInv_takeEvent {e : HostEvent} {s t : State} (hs : BlockInv s) (h : takeEvent e s = .next t) :
    BlockInv t := by
  obtain ⟨w, i, -, -, hexec⟩ | ⟨w, r, -, -, rfl⟩ | ⟨-, rfl⟩ | ⟨-, rfl⟩ := takeEvent_cases h
  · have he := effect_of_exec hexec
    exact ⟨he.archOk hs.1, he.quiet hs.2⟩
  · exact ⟨archOk_raise _ hs.1, hs.2⟩
  · exact blockInv_blockReset s
  · exact hs

/-- Settles O15: between commands a step is an event of the host or an idle edge, and each keeps the invariant. -/
theorem stepKeepsInvariant : Obligations.StepKeepsInvariant := by
  intro s t hs h
  obtain ⟨hbusy, -⟩ | ⟨-, -, hstep⟩ | ⟨-, e, rest, -, hstep⟩ := step_cases s
  · cases hs.2.1.symm.trans hbusy
  · cases hstep.symm.trans h
    exact hs
  · exact blockInv_takeEvent (s := { s with inputs := rest }) hs (hstep.symm.trans h)

/-! ### Every command answers (R146) -/

/-- A valid frame is some address's frame (R32 (e)). -/
theorem frame_of_fvalid {s : State} (h : archOk s) (hv : s.fvalid = true) : ∃ a, s.frame = quadFull (frameOf a) :=
  ⟨_, h.1.1 hv⟩

/-- Four bytes held are four values (R16). -/
theorem resp_of_rcnt_four {s : State} (h : archOk s) (h4 : s.rcnt = 4) : ∃ r, s.resp = quadFull r := by
  obtain ⟨-, ⟨-, h0, h1, h2, h3⟩, -⟩ := h
  rw [h4] at h0 h1 h2 h3
  obtain ⟨b0, hb0⟩ := Option.isSome_iff_exists.mp (h0.mpr (by decide))
  obtain ⟨b1, hb1⟩ := Option.isSome_iff_exists.mp (h1.mpr (by decide))
  obtain ⟨b2, hb2⟩ := Option.isSome_iff_exists.mp (h2.mpr (by decide))
  obtain ⟨b3, hb3⟩ := Option.isSome_iff_exists.mp (h3.mpr (by decide))
  exact ⟨⟨b0, b1, b2, b3⟩, by simp only [quadFull, ← hb0, ← hb1, ← hb2, ← hb3]⟩

theorem exists_effect {s : State} (hs : archOk s) (i : Instr) : ∃ t, Effect s i t := by
  cases i with
  | nop => exact ⟨_, .nop⟩
  | crcInit => exact ⟨_, .crcInit⟩
  | crcByte d => exact ⟨_, .crcByte d⟩
  | crcRd sel => exact ⟨_, .crcRd sel⟩
  | frmBuild a => exact ⟨_, .frmBuild a⟩
  | rspClr => exact ⟨_, .rspClr⟩
  | resetFrame a l h => exact ⟨_, .resetFrame a l h⟩
  | frmRd i =>
    cases hv : s.fvalid
    · exact ⟨_, .frmRdFault i hv⟩
    · obtain ⟨a, ha⟩ := frame_of_fvalid hs hv
      exact ⟨_, .frmRd hv ((congrArg (quadAt · i) ha).trans (quadAt_quadFull _ i))⟩
  | rspPush d =>
    by_cases h4 : s.rcnt = 4
    · exact ⟨_, .rspPushFault d h4⟩
    · have hle : s.rcnt ≤ 4 := hs.2.1.1
      exact ⟨_, .rspPush d (by bv_omega)⟩
  | cmp =>
    cases hv : s.fvalid
    · exact ⟨_, .cmpFault hv⟩
    · by_cases h4 : s.rcnt = 4
      · obtain ⟨a, ha⟩ := frame_of_fvalid hs hv
        obtain ⟨r, hr⟩ := resp_of_rcnt_four hs h4
        exact ⟨_, .cmpFull hv h4 ha hr⟩
      · exact ⟨_, .cmpShort hv h4⟩

/-- Every command answers, and keeps the invariant (R32, R146). -/
theorem exec_answers {s : State} (hs : BlockInv s) (i : Instr) : ∃ t, exec i s = .next t ∧ BlockInv t := by
  obtain ⟨t, he⟩ := exists_effect hs.1 i
  exact ⟨t, exec_eq_next_iff.mpr he, he.archOk hs.1, he.quiet hs.2⟩

theorem takeEvent_answers {e : HostEvent} {s : State} (he : meaningful e) (hs : BlockInv s) :
    ∃ t, takeEvent e s = .next t ∧ BlockInv t := by
  suffices h : ∃ t, takeEvent e s = .next t from h.imp fun t ht => ⟨ht, blockInv_takeEvent hs ht⟩
  match e, he with
  | .word (.command w), _ =>
    obtain ⟨i, -, hr⟩ | ⟨r, -, hr⟩ := runCommand_cases w s
    · exact (exec_answers hs i).imp fun t ht => hr.trans ht.1
    · exact ⟨_, hr⟩
  | .word (.wire w), hw =>
    have hd : decode (.wire w) = .ok (.resetFrame (wireBytes w).b0 (wireBytes w).b2 (wireBytes w).b3) := if_pos hw
    exact ⟨_, takeEvent_word_of_decode hd s⟩
  | .assertRst, _ => exact ⟨_, rfl⟩
  | .idle, _ => exact ⟨_, rfl⟩

end Sys2Proof.Machine
end

section
/-! SUPPORT. The clock level: one edge of a command on schedule, the edges left to its completion, what an edge keeps (O57), that a step
completes (O16), and what shows before and at the completing edge (O55, O56). -/

namespace Sys2Proof.Machine

/-! ### Where a command is on the schedule (R78, R90) -/

/-- Edges left in a phase of `FRM_BUILD` that absorbs a byte, with `k` in `BITCNT`: all nine before the exclusive-or (log 6). -/
def phaseClocksLeft (k : BitVec 4) : Nat := if k = 8 then 9 else 8 - k.toNat

/-- The same for all of `FRM_BUILD`, by the phase `q` in `SEQ` (R90). -/
def buildClocksLeft (q : BitVec 3) (k : BitVec 4) : Nat :=
  match q.toNat with
  | 1 => 20
  | 2 => 10 + phaseClocksLeft k
  | 3 => 1 + phaseClocksLeft k
  | _ => 1

/-- Edges left to the completing one, that edge counted, in a state on schedule (R78, R90, R147). -/
def clocksLeft (s : State) : Nat :=
  match decodeCommand s.opreg with
  | .ok (.crcByte _) => if s.seq = 0 then 9 else 8 - s.bitcnt.toNat
  | .ok (.frmBuild _) => buildClocksLeft s.seq s.bitcnt
  | _ => 1

theorem clocksLeft_le (s : State) : clocksLeft s ≤ Config.latFrmBuild := by
  have hphase : phaseClocksLeft s.bitcnt ≤ 9 := by
    unfold phaseClocksLeft
    split <;> omega
  have hbuild : buildClocksLeft s.seq s.bitcnt ≤ 20 := by
    unfold buildClocksLeft
    split <;> omega
  unfold clocksLeft Config.latFrmBuild
  repeat' split
  all_goals omega

/-- A word's opcode is 4 exactly when it is a `FRM_BUILD` (R54). -/
theorem opField_eq_four_iff {w : CommandWord} : opField w = 4 ↔ ∃ a, decodeCommand w = .ok (.frmBuild a) := by
  refine ⟨fun h => ⟨_, decodeCommand_of_opField_four h⟩, fun ⟨a, hd⟩ => ?_⟩
  exact BitVec.eq_of_toNat_eq (Option.some.inj (place_of_decodeCommand hd)).symm

theorem clocksLeft_crcByte {s : State} {d : Byte} (hd : decodeCommand s.opreg = .ok (.crcByte d)) :
    clocksLeft s = if s.seq = 0 then 9 else 8 - s.bitcnt.toNat := by
  simp only [clocksLeft, hd]

theorem clocksLeft_frmBuild {s : State} {a : Byte} (hd : decodeCommand s.opreg = .ok (.frmBuild a)) :
    clocksLeft s = buildClocksLeft s.seq s.bitcnt := by
  simp only [clocksLeft, hd]

theorem onSchedule_crcByte {s : State} {d : Byte} (hd : decodeCommand s.opreg = .ok (.crcByte d)) :
    onSchedule s ↔ (s.seq = 0 ∧ s.bitcnt = 0) ∨ (s.seq = 1 ∧ s.bitcnt < 8) := by
  simp only [onSchedule, hd]

theorem onSchedule_frmBuild {s : State} {a : Byte} (hd : decodeCommand s.opreg = .ok (.frmBuild a)) :
    onSchedule s ↔ buildPhase a s := by
  simp only [onSchedule, hd]

/-- The four phases of `FRM_BUILD` by their number (R90). -/
theorem buildPhase_cases {a : Byte} {s : State} (h : buildPhase a s) :
    (s.seq = 1 ∧ s.bitcnt = 0) ∨ (s.seq = 2 ∧ absorbing Config.crcSeed a s) ∨
      (s.seq = 3 ∧ absorbing (absorb Config.crcSeed a) Config.funcReset s) ∨
        (s.seq = 4 ∧ s.bitcnt = 8 ∧ s.acc = crc16 [a, Config.funcReset]) := by
  unfold buildPhase at h
  split at h
  case h_1 hq => exact .inl ⟨BitVec.eq_of_toNat_eq hq, h⟩
  case h_2 hq => exact .inr (.inl ⟨BitVec.eq_of_toNat_eq hq, h⟩)
  case h_3 hq => exact .inr (.inr (.inl ⟨BitVec.eq_of_toNat_eq hq, h⟩))
  case h_4 hq => exact .inr (.inr (.inr ⟨BitVec.eq_of_toNat_eq hq, h⟩))
  case h_5 => exact h.elim

theorem clocksLeft_of_latency_one {s : State} (h : latency s.opreg = 1) : clocksLeft s = 1 := by
  unfold latency at h
  unfold clocksLeft
  cases hd : decodeCommand s.opreg with
  | error e => rfl
  | ok i =>
    rw [hd] at h
    cases i with
    | crcByte | frmBuild => cases h
    | nop | crcInit | crcRd | frmRd | rspClr | rspPush | cmp | resetFrame => rfl

/-- The accepting edge puts the command on schedule (R78, R90). -/
theorem onSchedule_accept (w : CommandWord) (s : State) : onSchedule (accept w s) := by
  rw [accept_eq_inHand]
  by_cases h4 : opField w = 4
  · have hd := decodeCommand_of_opField_four h4
    rw [if_pos h4, onSchedule_frmBuild (s := inHand w 1 0 s.acc s) hd]
    rfl
  · have hd := not_exists.mp (mt opField_eq_four_iff.mpr h4)
    rw [if_neg h4, onSchedule, inHand_opreg]
    cases hw : decodeCommand w with
    | error e => exact ⟨rfl, rfl⟩
    | ok i =>
      cases i with
      | frmBuild a => exact absurd hw (hd a)
      | crcByte d => exact .inl ⟨rfl, rfl⟩
      | nop | crcInit | crcRd | frmRd | rspClr | rspPush | cmp | resetFrame => exact ⟨rfl, rfl⟩

/-- From acceptance a command has its `LAT` to go (R147). -/
theorem clocksLeft_accept (w : CommandWord) (s : State) : clocksLeft (accept w s) = latency w := by
  cases hd : decodeCommand w with
  | error e => simp [clocksLeft, latency, hd, Config.latSingle]
  | ok i =>
    obtain ⟨d, rfl⟩ | ⟨a, rfl⟩ | ⟨hlat, -⟩ := clocks_of_decodeCommand hd
    · have h4 : opField w ≠ 4 := mt opField_eq_four_iff.mp (by simp [hd])
      rw [accept_eq_inHand, if_neg h4]
      simp [clocksLeft, latency, hd, Config.latCrcByte]
    · have h4 : opField w = 4 := opField_eq_four_iff.mpr ⟨a, hd⟩
      rw [accept_eq_inHand, if_pos h4]
      simp [clocksLeft, latency, hd, buildClocksLeft, Config.latFrmBuild]
    · rw [hlat]
      exact clocksLeft_of_latency_one hlat

/-! ### One edge of a command on schedule -/

/-- The next edge is not the completing one: only the sequencer and `ACC` move, on schedule, one edge nearer to completion. -/
def Proceeds (w : CommandWord) (q : BitVec 3) (k : BitVec 4) (a : Acc) (s : State) : Prop :=
  ∃ q' k' a', advance (inHand w q k a s) = .next (inHand w q' k' a' s) ∧ onSchedule (inHand w q' k' a' s) ∧
    clocksLeft (inHand w q k a s) = clocksLeft (inHand w q' k' a' s) + 1

/-- The next edge is the completing one, and leaves the block between commands in the invariant of R32. -/
def AtLastEdge (w : CommandWord) (q : BitVec 3) (k : BitVec 4) (a : Acc) (s : State) : Prop :=
  clocksLeft (inHand w q k a s) = 1 ∧
    (archOk s → ∃ t, advance (inHand w q k a s) = .next t ∧ BlockInv t)

section
variable {w : CommandWord} {q : BitVec 3} {k : BitVec 4} {a : Acc} {s : State}

theorem blockInv_release (h : archOk s) : BlockInv (release s) := ⟨h, rfl, rfl, rfl, rfl⟩

/-- One edge of an absorbing phase: it goes on absorbing, or the byte is taken and the next phase entered (R90). -/
theorem absorbPhase_of_absorbing {start : Acc} {d : Byte} (q' : BitVec 3)
    (h : absorbing start d (inHand w q k a s)) :
    (∃ k' a', absorbPhase d q' (inHand w q k a s) = .next (inHand w q k' a' s) ∧
        absorbing start d (inHand w q k' a' s) ∧ phaseClocksLeft k = phaseClocksLeft k' + 1) ∨
      (absorbPhase d q' (inHand w q k a s) = .next (inHand w q' 8 (absorb start d) s) ∧ phaseClocksLeft k = 1) := by
  obtain ⟨hk, ha⟩ | ⟨hk, ha⟩ := h
  · obtain rfl : k = 8 := hk
    obtain rfl : a = start := ha
    have hlt : (0 : BitVec 4) < 8 := by decide
    exact .inl ⟨0, xorByte a d, by simp [absorbPhase], .inr ⟨hlt, rfl⟩, rfl⟩
  · replace hk : k < 8 := hk
    replace ha : bitstep a = bitsteps (k.toNat + 1) (xorByte start d) := by
      rw [bitsteps_succ_outer]
      exact congrArg bitstep ha
    by_cases h7 : k = 7
    · subst h7
      refine .inr ⟨?_, rfl⟩
      replace ha : bitstep a = absorb start d := ha
      simp [absorbPhase, ha]
    · have hlt : k < 7 := by bv_omega
      have hk1 : (k + 1).toNat = k.toNat + 1 := by bv_omega
      refine .inl ⟨k + 1, bitstep a, absorbPhase_of_bitcnt_lt d q' hlt, .inr ⟨?_, ?_⟩, ?_⟩
      · show k + 1 < 8
        bv_omega
      · show bitstep a = bitsteps (k + 1).toNat _
        rw [ha, hk1]
      · have h8 : k ≠ 8 := by bv_omega
        have h8' : k + 1 ≠ 8 := by bv_omega
        rw [phaseClocksLeft, phaseClocksLeft, if_neg h8, if_neg h8']
        bv_omega

/-- In an absorbing phase of `FRM_BUILD` the command proceeds (R90). -/
theorem proceeds_of_absorbing {start : Acc} {d : Byte} {q' : BitVec 3}
    (hadv : ∀ k a, advance (inHand w q k a s) = absorbPhase d q' (inHand w q k a s))
    (hsched : ∀ k a, absorbing start d (inHand w q k a s) → onSchedule (inHand w q k a s))
    (hnext : onSchedule (inHand w q' 8 (absorb start d) s))
    (hleft : ∀ k a, clocksLeft (inHand w q k a s) = clocksLeft (inHand w q' 8 (absorb start d) s) + phaseClocksLeft k)
    (h : absorbing start d (inHand w q k a s)) : Proceeds w q k a s := by
  obtain ⟨k', a', hedge, habs, hk⟩ | ⟨hedge, hk⟩ := absorbPhase_of_absorbing q' h
  · exact ⟨q, k', a', (hadv k a).trans hedge, hsched k' a' habs, by rw [hleft, hleft, hk, add_assoc]⟩
  · exact ⟨q', 8, _, (hadv k a).trans hedge, hnext, by rw [hleft, hk]⟩

/-- A command of one clock is at its last edge, and does there what `exec` does (R147). -/
theorem atLastEdge_oneEdge {i : Instr} (hlat : latency w = 1)
    (hadv : ∀ u : State, u.opreg = w → advance u = oneEdge i u) : AtLastEdge w q k a s := by
  refine ⟨clocksLeft_of_latency_one hlat, fun hs => ?_⟩
  have hexec : advance (inHand w q k a s) = exec i (release (setAcc a s)) :=
    (hadv _ rfl).trans (oneEdge_inHand w q k (setAcc a s) i)
  rw [hexec]
  exact exec_answers (blockInv_release (s := setAcc a s) hs) i

theorem atLastEdge_reserved {e : DecodeReject} (hd : decodeCommand w = .error e) : AtLastEdge w q k a s := by
  refine ⟨by simp only [clocksLeft, inHand_opreg, hd], fun hs => ?_⟩
  refine ⟨release (raise .illegalCommand (inHand w q k a s)), by simp only [advance, inHand_opreg, hd], ?_⟩
  exact blockInv_release (archOk_raise .illegalCommand (s := inHand w q k a s) hs)

/-- `CRC_BYTE`: the exclusive-or, seven bit steps, and the eighth that completes it (R78). -/
theorem crcByte_on_schedule {d : Byte} (hd : decodeCommand w = .ok (.crcByte d)) (h : onSchedule (inHand w q k a s)) :
    Proceeds w q k a s ∨ AtLastEdge w q k a s := by
  have hadv (q k a) : advance (inHand w q k a s) = crcByteEdge d (inHand w q k a s) := by
    simp only [advance, inHand_opreg, hd]
  have hleft (q k a) : clocksLeft (inHand w q k a s) = if q = 0 then 9 else 8 - k.toNat := clocksLeft_crcByte hd
  have hsched (q k a) : onSchedule (inHand w q k a s) ↔ (q = 0 ∧ k = 0) ∨ (q = 1 ∧ k < 8) := onSchedule_crcByte hd
  obtain ⟨rfl, rfl⟩ | ⟨rfl, hk⟩ := (hsched q k a).mp h
  · refine .inl ⟨1, 0, xorByte a d, by simp [hadv, crcByteEdge], (hsched _ _ _).mpr (.inr ⟨rfl, by decide⟩), ?_⟩
    simp [hleft]
  · by_cases h7 : k = 7
    · subst h7
      refine .inr ⟨by simp [hleft], fun hs => ?_⟩
      refine ⟨release (complete 0x00 (inHand w 1 8 (bitstep a) s)), by simp [hadv, crcByteEdge], ?_⟩
      exact blockInv_release (s := complete 0x00 (inHand w 1 8 (bitstep a) s)) hs
    · have hlt : k < 7 := by bv_omega
      refine .inl ⟨1, k + 1, bitstep a, ?_, (hsched _ _ _).mpr (.inr ⟨rfl, by bv_omega⟩), ?_⟩
      · rw [hadv, crcByteEdge_of_bitcnt_lt d rfl hlt, bitEdge_inHand]
      · simp only [hleft, if_neg (show (1 : BitVec 3) ≠ 0 by decide)]
        bv_omega

/-- `FRM_BUILD`: the seed, two bytes absorbed, the store that completes it (R90). -/
theorem frmBuild_on_schedule {x : Byte} (hd : decodeCommand w = .ok (.frmBuild x)) (h : onSchedule (inHand w q k a s)) :
    Proceeds w q k a s ∨ AtLastEdge w q k a s := by
  have hadv (q k a) : advance (inHand w q k a s) = frmBuildEdge x (inHand w q k a s) := by
    simp only [advance, inHand_opreg, hd]
  have hsched (q k a) : onSchedule (inHand w q k a s) ↔ buildPhase x (inHand w q k a s) := onSchedule_frmBuild hd
  have hleft (q k a) : clocksLeft (inHand w q k a s) = buildClocksLeft q k := clocksLeft_frmBuild hd
  obtain ⟨hq, -⟩ | ⟨hq, habs⟩ | ⟨hq, habs⟩ | ⟨hq, -, ha⟩ := buildPhase_cases ((hsched q k a).mp h)
  all_goals
    replace hq : q = _ := hq
    subst hq
  · refine .inl ⟨2, 8, Config.crcSeed, by simp [hadv, frmBuildEdge], (hsched _ _ _).mpr (.inl ⟨rfl, rfl⟩), ?_⟩
    rw [hleft, hleft]
    rfl
  · have hnext : onSchedule (inHand w 3 8 (absorb Config.crcSeed x) s) := (hsched _ _ _).mpr (.inl ⟨rfl, rfl⟩)
    exact .inl (proceeds_of_absorbing (hadv 2) (fun k a => (hsched 2 k a).mpr) hnext
      (fun k a => by rw [hleft, hleft]; rfl) habs)
  · have hnext : onSchedule (inHand w 4 8 (crc16 [x, Config.funcReset]) s) := (hsched _ _ _).mpr ⟨rfl, rfl⟩
    exact .inl (proceeds_of_absorbing (hadv 3) (fun k a => (hsched 3 k a).mpr) hnext
      (fun k a => by rw [hleft, hleft]; rfl) habs)
  · obtain rfl : a = crc16 [x, Config.funcReset] := ha
    refine .inr ⟨hleft _ _ _, fun hs => ?_⟩
    have hedge : advance (inHand w 4 k (crc16 [x, Config.funcReset]) s) =
        .next (release (complete 0x00 (storeBuilt (frameOf x) (inHand w 4 k (crc16 [x, Config.funcReset]) s)))) :=
      hadv _ _ _
    exact ⟨_, hedge, blockInv_release (archOk_storeBuilt x (s := inHand w 4 k _ s) hs)⟩

/-- Every state on schedule: the next edge is the completing one, or leads to a state on schedule (R78, R90, R147). -/
theorem advance_on_schedule (h : onSchedule (inHand w q k a s)) : Proceeds w q k a s ∨ AtLastEdge w q k a s := by
  cases hd : decodeCommand w with
  | error e => exact .inr (atLastEdge_reserved hd)
  | ok i =>
    obtain ⟨d, rfl⟩ | ⟨x, rfl⟩ | ⟨hlat, hadv⟩ := clocks_of_decodeCommand hd
    · exact crcByte_on_schedule hd h
    · exact frmBuild_on_schedule hd h
    · exact .inr (atLastEdge_oneEdge hlat hadv)

end

/-- A busy block, its strobe over, is its own command in hand. -/
theorem dropStrobe_of_busy {s : State} (hb : s.busy = true) :
    dropStrobe s = inHand s.opreg s.seq s.bitcnt s.acc s := by
  simp only [dropStrobe, inHand, hb.symm]

/-! ### The clock-level invariant (R32, R146) -/

theorem clockInv_of_blockInv {s : State} (h : BlockInv s) : ClockInv s := by
  refine ⟨h.1, fun hb => ?_, fun _ => h.2⟩
  cases h.2.1.symm.trans hb

theorem clockInv_inHand {w : CommandWord} {q : BitVec 3} {k : BitVec 4} {a : Acc} {s : State} (hs : archOk s)
    (h : onSchedule (inHand w q k a s)) : ClockInv (inHand w q k a s) :=
  ⟨hs, fun _ => ⟨h, rfl⟩, fun hb => by cases hb⟩

/-- Settles O57: an edge resets, moves the command in hand on, accepts one onto the schedule, or idles. -/
theorem edgeKeepsClockInvariant : Obligations.EdgeKeepsClockInvariant := by
  intro p s hs
  obtain ⟨harch, hin, hout⟩ := hs
  obtain ⟨-, hedge⟩ | ⟨-, hb, hedge⟩ | ⟨-, -, -, hedge⟩ | ⟨-, hb, -, hedge⟩ := edge_cases p s
  · exact ⟨_, hedge, clockInv_of_blockInv (blockInv_blockReset s)⟩
  · rw [dropStrobe_of_busy hb] at hedge
    obtain ⟨q', k', a', hadv, hsched, -⟩ | ⟨-, hlast⟩ :=
      advance_on_schedule (s := s) (w := s.opreg) (q := s.seq) (k := s.bitcnt) (a := s.acc) (hin hb).1
    · exact ⟨_, hedge.trans hadv, clockInv_inHand harch hsched⟩
    · obtain ⟨t, hadv, ht⟩ := hlast harch
      exact ⟨t, hedge.trans hadv, clockInv_of_blockInv ht⟩
  · exact ⟨_, hedge, clockInv_inHand harch (onSchedule_accept _ s)⟩
  · exact ⟨_, hedge, clockInv_of_blockInv ⟨harch, hout hb⟩⟩

/-- A command on schedule is run to its end within the edges left to it (R146). -/
theorem drain_on_schedule {n : Nat} {w : CommandWord} {q : BitVec 3} {k : BitVec 4} {a : Acc} {s : State}
    (hs : archOk s) (h : onSchedule (inHand w q k a s)) (hn : clocksLeft (inHand w q k a s) ≤ n) :
    ∃ t, drain n (inHand w q k a s) = .next t ∧ BlockInv t := by
  induction n generalizing q k a with
  | zero =>
    obtain ⟨q', k', a', -, -, hleft⟩ | ⟨hleft, -⟩ := advance_on_schedule h
    · omega
    · omega
  | succ n ih =>
    obtain ⟨q', k', a', hadv, hsched, hleft⟩ | ⟨-, hlast⟩ := advance_on_schedule h
    · obtain ⟨t, ht, hinv⟩ := ih hsched (by omega)
      exact ⟨t, by simpa [drain, hadv] using ht, hinv⟩
    · obtain ⟨t, hadv, hinv⟩ := hlast hs
      exact ⟨t, by simp [drain, hadv, hinv.2.1], hinv⟩

/-- Settles O16: inside a command it is run to its end, between commands the event answers. -/
theorem stepAlwaysCompletes : Obligations.StepAlwaysCompletes := by
  intro s hs hmean
  obtain ⟨harch, hin, hout⟩ := hs
  obtain ⟨hb, hstep⟩ | ⟨hb, -, hstep⟩ | ⟨hb, e, rest, hinputs, hstep⟩ := step_cases s
  · obtain ⟨hsched, hrsp⟩ := hin hb
    have hinHand : s = inHand s.opreg s.seq s.bitcnt s.acc s := by
      rw [← dropStrobe_of_busy hb]
      simp only [dropStrobe, hrsp.symm]
    rw [hstep, hinHand]
    exact drain_on_schedule harch hsched (clocksLeft_le _)
  · exact ⟨_, hstep, harch, hout hb⟩
  · rw [hstep]
    exact takeEvent_answers (hmean e rest hinputs) (s := { s with inputs := rest }) ⟨harch, hout hb⟩

/-- Settles O14: the reset state is what a block reset leaves. -/
theorem invariantAtReset : Obligations.InvariantAtReset := by
  have hreset : BlockInv State.reset := blockInv_blockReset State.reset
  exact ⟨hreset, clockInv_of_blockInv hreset⟩

/-! ### Before and at the completing edge (R31, R149) -/

/-- Over fewer edges than are left only the sequencer and `ACC` move. -/
theorem edges_before_completion {ps : List Inputs} {w : CommandWord} {q : BitVec 3} {k : BitVec 4} {a : Acc} {s : State}
    (hps : ∀ p ∈ ps, p.rst = false) (h : onSchedule (inHand w q k a s))
    (hlen : ps.length < clocksLeft (inHand w q k a s)) :
    ∃ q' k' a', edges ps (inHand w q k a s) = .next (inHand w q' k' a' s) := by
  induction ps generalizing q k a with
  | nil => exact ⟨q, k, a, rfl⟩
  | cons p ps ih =>
    rw [List.length_cons] at hlen
    obtain ⟨q', k', a', hadv, hsched, hleft⟩ | ⟨hleft, -⟩ := advance_on_schedule h
    · have hedge : edge p (inHand w q k a s) = .next (inHand w q' k' a' s) :=
        (edge_of_busy (hps p (by simp)) rfl).trans hadv
      rw [edges, hedge]
      exact ih (fun x hx => hps x (by simp [hx])) hsched (by omega)
    · omega

/-- Settles O55: from acceptance `LAT` edges are left. -/
theorem nothingShowsBeforeCompletion : Obligations.NothingShowsBeforeCompletion := by
  intro p ps s hquiet hp hv hps hlen
  rw [← clocksLeft_accept _ s] at hlen
  obtain ⟨q, k, a, hrun⟩ := edges_before_completion hps (onSchedule_accept _ s) hlen
  refine ⟨inHand (commandWord p.cmdOp p.cmdData) q k a s, ?_, rfl, rfl, rfl, rfl, rfl, rfl, rfl, rfl, rfl, rfl⟩
  rw [edges, edge_accepts hp hv hquiet.1]
  exact hrun

/-- Everything an edge of `FRM_BUILD` can do with a next state (R90). -/
theorem frmBuildEdge_inHand_cases {x : Byte} {w : CommandWord} {q : BitVec 3} {k : BitVec 4} {a : Acc} {s t : State}
    (h : frmBuildEdge x (inHand w q k a s) = .next t) :
    (∃ q' k' a', t = inHand w q' k' a' s) ∨ ∃ u, t = release (complete 0x00 u) := by
  have habsorb (d : Byte) (n : BitVec 3) (h : absorbPhase d n (inHand w q k a s) = .next t) :
      ∃ q' k' a', t = inHand w q' k' a' s := by
    obtain ⟨-, rfl⟩ | ⟨-, rfl⟩ | ⟨-, rfl⟩ := absorbPhase_cases h <;> exact ⟨_, _, _, rfl⟩
  unfold frmBuildEdge at h
  split at h
  case h_1 => cases h; exact .inl ⟨_, _, _, rfl⟩
  case h_2 | h_3 => exact .inl (habsorb _ _ h)
  case h_4 => cases h; exact .inr ⟨_, rfl⟩
  case h_5 => cases h

/-- An edge inside a command moves only the sequencer and `ACC`, or frees the block and gives the strobe (R30, R149). -/
theorem advance_inHand_cases {w : CommandWord} {q : BitVec 3} {k : BitVec 4} {a : Acc} {s t : State}
    (h : advance (inHand w q k a s) = .next t) :
    (∃ q' k' a', t = inHand w q' k' a' s) ∨ ∃ u, t = release u ∧ ∃ c, u.rsp = some c := by
  cases hd : decodeCommand w with
  | error e =>
    simp only [advance, inHand_opreg, hd] at h
    cases h
    exact .inr ⟨_, rfl, _, rfl⟩
  | ok i =>
    obtain ⟨d, rfl⟩ | ⟨x, rfl⟩ | ⟨-, hadv⟩ := clocks_of_decodeCommand hd
    · simp only [advance, inHand_opreg, hd] at h
      obtain ⟨-, rfl⟩ | ⟨-, -, rfl⟩ | ⟨-, -, rfl⟩ := crcByteEdge_cases h
      · exact .inl ⟨_, _, _, rfl⟩
      · exact .inr ⟨_, rfl, _, rfl⟩
      · exact .inl ⟨_, _, _, rfl⟩
    · simp only [advance, inHand_opreg, hd] at h
      obtain hgo | ⟨u, rfl⟩ := frmBuildEdge_inHand_cases h
      · exact .inl hgo
      · exact .inr ⟨_, rfl, _, rfl⟩
    · rw [hadv _ rfl] at h
      obtain ⟨u, hu, rfl⟩ := oneEdge_eq_next h
      exact .inr ⟨u, rfl, exec_rsp_isSome (by simp [place_of_decodeCommand hd]) hu⟩

/-- Settles O56: only the completing edge of a busy block gives a strobe, and it always does. -/
theorem strobeOnlyAfterCompletingEdge : Obligations.StrobeOnlyAfterCompletingEdge := by
  intro p s t u h
  refine and_assoc.mp ⟨?_, rfl⟩
  obtain ⟨hp, hedge⟩ | ⟨hp, hb, hedge⟩ | ⟨hp, hb, -, hedge⟩ | ⟨hp, hb, -, hedge⟩ := edge_cases p s
  · cases hedge.symm.trans h
    exact ⟨fun hv => (by cases hv), fun _ _ hp' => by cases hp.symm.trans hp'⟩
  · rw [dropStrobe_of_busy hb] at hedge
    obtain ⟨q', k', a', rfl⟩ | ⟨v, rfl, c, hc⟩ := advance_inHand_cases (hedge.symm.trans h)
    · exact ⟨fun hv => (by cases hv), fun _ hfree => by cases hfree⟩
    · exact ⟨fun _ => ⟨hb, rfl, rfl⟩, fun _ _ _ => by simp [outputs, hc]⟩
  · cases hedge.symm.trans h
    exact ⟨fun hv => (by cases hv), fun hbusy => by cases hb.symm.trans hbusy⟩
  · cases hedge.symm.trans h
    exact ⟨fun hv => (by cases hv), fun hbusy => by cases hb.symm.trans hbusy⟩

end Sys2Proof.Machine
end

section
/-! SUPPORT. The command port (O53), the reset values (O11) and the bits of the output words (O52). -/

namespace Sys2Proof.Machine

/-- Settles O53: an idle block takes the word presented, a busy one goes on with its own. -/
theorem acceptanceAtThePort : Obligations.AcceptanceAtThePort := by
  intro p s hp
  refine ⟨fun hb hv => ⟨_, edge_accepts hp hv hb, rfl, rfl, rfl⟩, fun hb q hq => ?_, fun hb hv q hq hqv => ?_⟩
  · rw [edge_of_busy hp hb, edge_of_busy hq hb]
  · simp [edge, hp, hb, hv, hq, hqv]

/-- Settles O11: `State.reset` field by field. -/
theorem resetLeavesResetValues : Obligations.ResetLeavesResetValues :=
  ⟨rfl, rfl, rfl, rfl, rfl, rfl, rfl, rfl, rfl, rfl, rfl, rfl, rfl, rfl⟩

/-- `STATUS` by bit position, from the low end (R25). -/
theorem statusWord_getLsbD (s : State) (n : Nat) :
    (statusWord s).getLsbD n =
      if n < 1 then (BitVec.ofBool s.busy).getLsbD n
      else if n < 2 then (BitVec.ofBool s.fvalid).getLsbD (n - 1)
      else if n < 3 then (BitVec.ofBool s.matched).getLsbD (n - 2)
      else if n < 4 then (BitVec.ofBool s.mvalid).getLsbD (n - 3)
      else if n < 7 then s.rcnt.getLsbD (n - 4)
      else if n < 8 then (BitVec.ofBool s.err).getLsbD (n - 7)
      else s.cause.getLsbD (n - 8) := by
  simp only [statusWord, BitVec.getLsbD_append]
  grind

theorem statusWord_rcnt (s : State) : (statusWord s).extractLsb' 4 3 = s.rcnt := by
  apply BitVec.eq_of_getLsbD_eq
  intro i hi
  rw [BitVec.getLsbD_extractLsb', statusWord_getLsbD]
  interval_cases i <;> rfl

theorem statusWord_cause (s : State) : (statusWord s).extractLsb' 8 2 = s.cause := by
  apply BitVec.eq_of_getLsbD_eq
  intro i hi
  rw [BitVec.getLsbD_extractLsb', statusWord_getLsbD]
  interval_cases i <;> rfl

/-- Settles O52: `STATUS` by bit position, and the two parts of the completion word. -/
theorem statusAndCompletionBits : Obligations.StatusAndCompletionBits := by
  refine ⟨fun s => ⟨?_, ?_, ?_, ?_, statusWord_rcnt s, ?_, statusWord_cause s⟩, fun c => ⟨?_, ?_⟩⟩
  case refine_6 =>
    simp only [completionWord, BitVec.getLsbD_append]
    simp
  case refine_7 => exact BitVec.extractLsb'_append_eq_right
  all_goals
    rw [statusWord_getLsbD]
    simp

end Sys2Proof.Machine
end

section
/-! SUPPORT. A step that runs no instruction: the reserved word's fault (O9) and the idle block (O10). -/

namespace Sys2Proof.Machine

/-- A reserved word at the port is the fault `IllegalCommand` (R55, R106). -/
theorem runCommand_of_reserved {w : CommandWord} {r : DecodeReject} (hd : decodeCommand w = .error r) (s : State) :
    runCommand w s = .next (raise .illegalCommand s) := by
  simp only [runCommand, hd]

/-- With no event left a block between commands idles (R46 (d)). -/
theorem step_of_inputs_nil {s : State} (hb : s.busy = false) (hin : s.inputs = []) : step s = .next (dropStrobe s) := by
  simp [step, hb, hin]

/-- An edge with nothing presented to an idle block (R46 (d), R149). -/
theorem edge_idles {p : Inputs} {s : State} (hp : p.rst = false) (hv : p.cmdValid = false) (hb : s.busy = false) :
    edge p s = .next (dropStrobe s) := by
  simp [edge, hp, hv, hb]

/-- Settles O9: the step takes the word off the events and is `raise` of the rest, whose code is 1. -/
theorem stepFaultsOnReservedWord : Obligations.StepFaultsOnReservedWord := by
  intro s w rest r hb hin hd
  calc step s = runCommand w { s with inputs := rest } := step_of_inputs_cons hb hin
    _ = .next (raise .illegalCommand { s with inputs := rest }) := runCommand_of_reserved hd _

/-- Settles O10: with no event, an idle event or nothing presented, only the strobe is dropped. -/
theorem idleBlockKeepsItsState : Obligations.IdleBlockKeepsItsState := by
  intro s hb
  refine ⟨fun hnil => ?_, fun rest hidle => ?_, fun p hp hv => ?_⟩
  · exact step_of_inputs_nil hb hnil
  · exact step_of_inputs_cons hb hidle
  · exact edge_idles hp hv hb

end Sys2Proof.Machine
end

section
/-! SUPPORT. Decoding and encoding are inverse to each other, at the command port and on the wire (O1, O2). -/

namespace Sys2Proof.Machine

/-! ### Command words -/

theorem commandWord_of_fields {w : CommandWord} {op : BitVec 4} {d : Byte} (hop : (opField w).toNat = op.toNat)
    (hd : dataField w = d) : commandWord op d = w := by
  rw [← BitVec.eq_of_toNat_eq hop, ← hd, commandWord_opField_dataField]

/-- The high `n` bits of a byte are 0 exactly when its value fits the others. -/
theorem extractLsb'_eq_zero_iff_lt {data : Byte} {k n : Nat} (hn : k + n = 8) :
    data.extractLsb' k n = 0 ↔ data.toNat < 2 ^ k := by
  have hdiv : data.toNat / 2 ^ k < 2 ^ n := Nat.div_lt_of_lt_mul (by rw [← Nat.pow_add, hn]; exact data.isLt)
  rw [← BitVec.toNat_inj, BitVec.extractLsb'_toNat, Nat.shiftRight_eq_div_pow, Nat.mod_eq_of_lt hdiv]
  simp [Nat.div_eq_zero_iff]

/-- A byte whose value fits `k` bits is those bits with zeros above. -/
theorem setWidth_extractLsb'_of_lt {data : Byte} {k : Nat} (h : data.toNat < 2 ^ k) :
    (data.extractLsb' 0 k).setWidth 8 = data := by
  rw [← BitVec.toNat_inj, BitVec.toNat_setWidth, BitVec.extractLsb'_toNat, Nat.shiftRight_zero, Nat.mod_eq_of_lt h,
    Nat.mod_eq_of_lt data.isLt]

theorem extractLsb'_setWidth_of_le {k : Nat} (hk : k ≤ 8) (x : BitVec k) : (x.setWidth 8).extractLsb' 0 k = x := by
  rw [← BitVec.toNat_inj, BitVec.extractLsb'_toNat, Nat.shiftRight_zero, BitVec.toNat_setWidth_of_le hk,
    Nat.mod_eq_of_lt x.isLt]

/-- `data[7:1] = 0` leaves the two values of `s` (R53). -/
theorem aboveSel_eq_zero_iff {data : Byte} : aboveSel data = 0 ↔ data.toNat < 2 :=
  extractLsb'_eq_zero_iff_lt rfl

/-- `data[7:2] = 0` leaves the four values of `i` (R53). -/
theorem aboveIndex_eq_zero_iff {data : Byte} : aboveIndex data = 0 ↔ data.toNat < 4 :=
  extractLsb'_eq_zero_iff_lt rfl

@[simp] theorem aboveSel_setWidth (sel : BitVec 1) : aboveSel (sel.setWidth 8) = 0 := by
  rw [aboveSel_eq_zero_iff, BitVec.toNat_setWidth]
  omega

@[simp] theorem aboveIndex_setWidth (i : BitVec 2) : aboveIndex (i.setWidth 8) = 0 := by
  rw [aboveIndex_eq_zero_iff, BitVec.toNat_setWidth]
  omega

@[simp] theorem selField_setWidth (sel : BitVec 1) : selField (sel.setWidth 8) = sel :=
  extractLsb'_setWidth_of_le (by omega) sel

@[simp] theorem indexField_setWidth (i : BitVec 2) : indexField (i.setWidth 8) = i :=
  extractLsb'_setWidth_of_le (by omega) i

theorem setWidth_selField {data : Byte} (h : aboveSel data = 0) : (selField data).setWidth 8 = data :=
  setWidth_extractLsb'_of_lt (aboveSel_eq_zero_iff.mp h)

theorem setWidth_indexField {data : Byte} (h : aboveIndex data = 0) : (indexField data).setWidth 8 = data :=
  setWidth_extractLsb'_of_lt (aboveIndex_eq_zero_iff.mp h)

/-- A command word decodes to the instruction it is the word of, and to no other (R54, R56). -/
theorem decodeCommand_eq_ok_iff {w : CommandWord} {i : Instr} : decodeCommand w = .ok i ↔ encode i = .command w := by
  constructor
  · intro h
    unfold decodeCommand at h
    dsimp only at h
    split at h
    case h_10 => cases h
    case h_4 hop =>
      split at h
      case isTrue habove => cases h; exact congrArg _ (commandWord_of_fields hop (setWidth_selField habove).symm)
      case isFalse => cases h
    case h_6 hop =>
      split at h
      case isTrue habove => cases h; exact congrArg _ (commandWord_of_fields hop (setWidth_indexField habove).symm)
      case isFalse => cases h
    case h_3 hop | h_5 hop | h_8 hop => cases h; exact congrArg _ (commandWord_of_fields hop rfl)
    case h_1 hop | h_2 hop | h_7 hop | h_9 hop =>
      cases withoutOperand_eq_ok h
      exact congrArg _ (commandWord_of_fields hop (withoutOperand_ok_data h))
  · intro h
    cases i with
    | resetFrame a l c => cases h
    | nop | crcInit | crcByte | crcRd | frmBuild | frmRd | rspClr | rspPush | cmp =>
      cases h
      simp [decodeCommand, withoutOperand]

/-! ### Wire words -/

@[simp] theorem wireBytes_wireWord (q : Quad Byte) : wireBytes (wireWord q) = q := by
  simp only [wireBytes, wireWord]
  congr 1
  · rw [BitVec.extractLsb'_append_eq_of_le (by omega), BitVec.extractLsb'_append_eq_of_le (by omega)]
    exact BitVec.extractLsb'_append_eq_left
  · rw [BitVec.extractLsb'_append_eq_of_le (by omega), BitVec.extractLsb'_append_eq_of_le (by omega)]
    exact BitVec.extractLsb'_append_eq_right
  · rw [BitVec.extractLsb'_append_eq_of_le (by omega)]
    exact BitVec.extractLsb'_append_eq_right
  · exact BitVec.extractLsb'_append_eq_right

@[simp] theorem wireWord_wireBytes (w : WireWord) : wireWord (wireBytes w) = w := by
  simp only [wireBytes, wireWord]
  rw [BitVec.extractLsb'_append_extractLsb'_eq_extractLsb' (by omega),
    BitVec.extractLsb'_append_extractLsb'_eq_extractLsb' (by omega),
    BitVec.extractLsb'_append_extractLsb'_eq_extractLsb' (by omega)]
  exact BitVec.extractLsb'_eq_self

theorem eq_wireWord_iff {w : WireWord} {q : Quad Byte} : w = wireWord q ↔ wireBytes w = q :=
  ⟨fun h => by rw [h, wireBytes_wireWord], fun h => by rw [← h, wireWord_wireBytes]⟩

/-- A wire word decodes exactly when its second byte is 0x42, and then to the frame of its other three (R57). -/
theorem decodeWire_eq_ok_iff_bytes {w : WireWord} {i : Instr} :
    decodeWire w = .ok i ↔ (wireBytes w).b1 = Config.funcReset ∧
      .resetFrame (wireBytes w).b0 (wireBytes w).b2 (wireBytes w).b3 = i := by
  simp only [decodeWire]
  split
  case isTrue h => simp [h]
  case isFalse h => simp [h]

/-- A wire word decodes to the instruction it is the word of, and to no other (R57). -/
theorem decodeWire_eq_ok_iff {w : WireWord} {i : Instr} : decodeWire w = .ok i ↔ encode i = .wire w := by
  rw [decodeWire_eq_ok_iff_bytes]
  constructor
  · rintro ⟨hfun, rfl⟩
    exact congrArg Encoded.wire ((congrArg (wireWord ⟨_, ·, _, _⟩) hfun.symm).trans (wireWord_wireBytes w))
  · intro h
    cases i with
    | resetFrame a l c =>
      cases h
      simp
    | nop | crcInit | crcByte | crcRd | frmBuild | frmRd | rspClr | rspPush | cmp => cases h

/-- Decoding and encoding are inverse to each other (R54, R57). -/
theorem decode_eq_ok_iff {e : Encoded} {i : Instr} : decode e = .ok i ↔ encode i = e := by
  cases e with
  | command w => exact decodeCommand_eq_ok_iff
  | wire w => exact decodeWire_eq_ok_iff

/-- Settles O1: the instruction's own word is one it is the word of. -/
theorem decodeOfEncode : Obligations.DecodeOfEncode :=
  fun _ => decode_eq_ok_iff.mpr rfl

/-- Settles O2: the other direction of the same equivalence. -/
theorem encodeOfDecode : Obligations.EncodeOfDecode :=
  fun _ _ => decode_eq_ok_iff.mp

end Sys2Proof.Machine
end

section
/-! SUPPORT. The wire frame: which wire words are well formed (O6), that `FRM_SEND` returns one (O32), and its sending (O45). -/

namespace Sys2Proof.Machine

/-! ### The well-formed wire words -/

theorem wireWord_injective : Function.Injective wireWord :=
  Function.LeftInverse.injective wireBytes_wireWord

theorem wireWord_and (p q : Quad Byte) :
    wireWord p &&& wireWord q = wireWord ⟨p.b0 &&& q.b0, p.b1 &&& q.b1, p.b2 &&& q.b2, p.b3 &&& q.b3⟩ :=
  BitVec.and_append.trans <| congrArg (· ++ _) <| BitVec.and_append.trans <| congrArg (· ++ _) BitVec.and_append

/-- The row's mask picks the function byte out of a wire word (R57). -/
theorem and_mask_eq_match_iff (w : WireWord) :
    w &&& 0x00FF0000 = 0x00420000 ↔ (wireBytes w).b1 = Config.funcReset := by
  have hmask : (0x00FF0000 : WireWord) = wireWord ⟨0, 0xFF, 0, 0⟩ := rfl
  have hmatch : (0x00420000 : WireWord) = wireWord ⟨0, Config.funcReset, 0, 0⟩ := rfl
  have hall (b : Byte) : b &&& 255#8 = b := BitVec.and_allOnes
  rw [hmask, hmatch, ← wireWord_wireBytes w, wireWord_and, wireWord_injective.eq_iff, wireBytes_wireWord]
  simp [hall]

/-- A checksum is its high byte over its low byte (R67). -/
theorem append_eq_iff {h l : Byte} {c : Acc} : h ++ l = c ↔ l = lo c ∧ h = hi c := by
  constructor
  · rintro rfl
    exact ⟨BitVec.extractLsb'_append_eq_right.symm, BitVec.extractLsb'_append_eq_left.symm⟩
  · rintro ⟨rfl, rfl⟩
    rw [hi, lo, BitVec.extractLsb'_append_extractLsb'_eq_extractLsb' (by omega)]
    exact BitVec.extractLsb'_eq_self

/-- Four bytes are their address's frame exactly when the last two are the checksum of the first two (R57, R81). -/
theorem eq_frameOf_iff {q : Quad Byte} :
    q = frameOf q.b0 ↔ q.b1 = Config.funcReset ∧ q.b3 ++ q.b2 = crc16 [q.b0, Config.funcReset] := by
  rw [append_eq_iff]
  cases q
  simp [frameOf]

/-- The wire words that decode to a well-formed instruction, by their bytes (R57). -/
theorem exists_wellFormed_iff {w : WireWord} :
    (∃ i, decodeWire w = .ok i ∧ i.wellFormed = true) ↔
      (wireBytes w).b1 = Config.funcReset ∧
        (wireBytes w).b3 ++ (wireBytes w).b2 = crc16 [(wireBytes w).b0, Config.funcReset] := by
  simp only [decodeWire_eq_ok_iff_bytes, and_assoc, exists_and_left, exists_eq_left', Instr.wellFormed, beq_iff_eq]

theorem exists_eq_wireWord_frameOf_iff {w : WireWord} :
    (∃ a, w = wireWord (frameOf a)) ↔ wireBytes w = frameOf (wireBytes w).b0 := by
  simp only [eq_wireWord_iff]
  refine ⟨fun ⟨a, ha⟩ => ?_, fun h => ⟨_, h⟩⟩
  rw [ha]
  rfl

/-- Settles O6: the mask picks out the function byte, and the frame of an address is what its four bytes must be. -/
theorem wireFramesAreOnePerAddress : Obligations.WireFramesAreOnePerAddress := by
  refine fun w => ⟨?_, ?_, fun a => congrArg Quad.b0 (wireBytes_wireWord (frameOf a))⟩
  · rw [and_mask_eq_match_iff]
    exact exists_wellFormed_iff
  · rw [exists_eq_wireWord_frameOf_iff, eq_frameOf_iff]
    exact exists_wellFormed_iff

/-! ### The frame read out and sent -/

theorem exec_frmRd_of_built {s : State} {q : Quad Byte} (hv : s.fvalid = true) (hf : s.frame = quadFull q)
    (i : BitVec 2) : exec (.frmRd i) s = .next (complete (quadAt q i) s) :=
  exec_eq_next_iff.mpr (.frmRd hv ((congrArg (quadAt · i) hf).trans (quadAt_quadFull q i)))

/-- The four completions of `FRM_SEND` are the built frame, and only the last is left on the pins (R61, R84). -/
theorem gather_frmSend_of_built {s : State} {q : Quad Byte} (hv : s.fvalid = true) (hf : s.frame = quadFull q) :
    gather frmSend s = .next (complete q.b3 s, (quadBytes q).map fun b => ⟨false, b⟩) :=
  gather_cons (exec_frmRd_of_built hv hf 0) <| gather_cons (exec_frmRd_of_built hv hf 1) <|
    gather_cons (exec_frmRd_of_built hv hf 2) <| gather_cons (exec_frmRd_of_built hv hf 3) <| gather_nil _

theorem decodeWireBytes_frameOf (a : Byte) :
    decodeWireBytes (quadBytes (frameOf a)) = .ok (.resetFrame a (frameOf a).b2 (frameOf a).b3) :=
  decodeWire_eq_ok_iff.mpr rfl

theorem wellFormed_frameOf (a : Byte) : (Instr.resetFrame a (frameOf a).b2 (frameOf a).b3).wellFormed = true := by
  obtain ⟨-, hcrc⟩ := eq_frameOf_iff.mp (rfl : frameOf a = frameOf (frameOf a).b0)
  exact beq_iff_eq.mpr hcrc

/-- Settles O32: a valid frame is some address's, and every address's frame is a well-formed `RESET`. -/
theorem frmSendIsTheWireFrame : Obligations.FrmSendIsTheWireFrame := by
  intro s hs hv
  obtain ⟨a, ha⟩ := frame_of_fvalid hs.1 hv
  exact ⟨a, ha, gather_frmSend_of_built hv ha, decodeWireBytes_frameOf a, wellFormed_frameOf a⟩

/-- Settles O45: the effect of the wire frame is `sendBytes` of its four bytes. -/
theorem resetFrameGoesOnTheWire : Obligations.ResetFrameGoesOnTheWire :=
  fun a l h _ => exec_eq_next_iff.mpr (.resetFrame a l h)

end Sys2Proof.Machine
end

section
/-! SUPPORT. The legal command words: the operand byte is below a bound that the opcode sets. From that one fact follow the
reserved words of R55 (O3), their number (O3, O4) and the opcode map (O5); then the sample words (O7). -/

namespace Sys2Proof.Machine

/-! ### The bound on the operand byte -/

/-- How many operand bytes are legal beside an opcode; they are the bytes below that number (R53, R55). -/
def operandCount (op : Nat) : Nat :=
  match op with
  | 0 | 1 | 6 | 8 => 1
  | 2 | 4 | 7 => 256
  | 3 => 2
  | 5 => 4
  | _ => 0

theorem operandCount_cases (op : Nat) :
    (op = 0 ∨ op = 1 ∨ op = 6 ∨ op = 8) ∧ operandCount op = 1 ∨ (op = 2 ∨ op = 4 ∨ op = 7) ∧ operandCount op = 256 ∨
      op = 3 ∧ operandCount op = 2 ∨ op = 5 ∧ operandCount op = 4 ∨ 9 ≤ op ∧ operandCount op = 0 := by
  match op with
  | 0 | 1 | 2 | 3 | 4 | 5 | 6 | 7 | 8 => decide
  | n + 9 => exact .inr (.inr (.inr (.inr ⟨Nat.le_add_left 9 n, rfl⟩)))

theorem operandCount_le (op : Nat) : operandCount op ≤ 256 := by
  have hcases := operandCount_cases op
  omega

theorem byte_eq_zero_iff {data : Byte} : data = 0 ↔ data.toNat < 1 := by
  rw [Nat.lt_one_iff, ← BitVec.toNat_inj]
  rfl

theorem isLegal_iff_exists {w : CommandWord} : isLegal w = true ↔ ∃ i, decodeCommand w = .ok i := by
  unfold isLegal
  cases decodeCommand w <;> simp

theorem isLegal_eq_false_iff_exists {w : CommandWord} : isLegal w = false ↔ ∃ r, decodeCommand w = .error r := by
  unfold isLegal
  cases decodeCommand w <;> simp

theorem exists_ite_eq_ok_iff {p : Prop} [Decidable p] {i : Instr} {r : DecodeReject} :
    (∃ j, (if p then Except.ok i else .error r) = .ok j) ↔ p := by
  split <;> simp [*]

/-- A command word is legal exactly when its operand byte is below its opcode's bound (R55). -/
theorem isLegal_iff {w : CommandWord} : isLegal w = true ↔ (dataField w).toNat < operandCount (opField w).toNat := by
  have hdata : (dataField w).toNat < 256 := (dataField w).isLt
  rw [isLegal_iff_exists]
  unfold decodeCommand
  dsimp only
  split
  case h_1 hop | h_2 hop | h_7 hop | h_9 hop => rw [hop]; exact exists_ite_eq_ok_iff.trans byte_eq_zero_iff
  case h_3 hop | h_5 hop | h_8 hop => rw [hop]; exact ⟨fun _ => hdata, fun _ => ⟨_, rfl⟩⟩
  case h_4 hop => rw [hop]; exact exists_ite_eq_ok_iff.trans aboveSel_eq_zero_iff
  case h_6 hop => rw [hop]; exact exists_ite_eq_ok_iff.trans aboveIndex_eq_zero_iff
  case h_10 => simp [operandCount, *]

/-! ### The reserved words -/

theorem aboveSel_dataField (w : CommandWord) : aboveSel (dataField w) = w.extractLsb' 1 7 :=
  BitVec.extractLsb'_extractLsb'_of_le (by omega)

theorem aboveIndex_dataField (w : CommandWord) : aboveIndex (dataField w) = w.extractLsb' 2 6 :=
  BitVec.extractLsb'_extractLsb'_of_le (by omega)

/-- The four cases of R55. -/
theorem isLegal_eq_false_iff {w : CommandWord} :
    isLegal w = false ↔ 9 ≤ (opField w).toNat ∨
      (opField w = 0 ∨ opField w = 1 ∨ opField w = 6 ∨ opField w = 8) ∧ dataField w ≠ 0 ∨
        opField w = 3 ∧ aboveSel (dataField w) ≠ 0 ∨ opField w = 5 ∧ aboveIndex (dataField w) ≠ 0 := by
  have hdata : (dataField w).toNat < 256 := (dataField w).isLt
  rw [← Bool.not_eq_true, isLegal_iff, ne_eq, ne_eq, ne_eq, byte_eq_zero_iff, aboveSel_eq_zero_iff,
    aboveIndex_eq_zero_iff]
  simp only [← BitVec.toNat_inj, BitVec.ofNat_eq_ofNat, BitVec.toNat_ofNat]
  have hcases := operandCount_cases (opField w).toNat
  omega

/-! ### Their number -/

theorem countP_range_mul (p : Nat → Bool) (n m : Nat) :
    (List.range (n * m)).countP p =
      ((List.range n).map fun i => (List.range m).countP fun k => p (i * m + k)).sum := by
  induction n with
  | zero => simp
  | succ n ih =>
    rw [Nat.succ_mul, List.range_add, List.countP_append, ih, List.countP_map, List.range_succ, List.map_append,
      List.sum_append, List.map_singleton, List.sum_singleton]
    rfl

theorem countP_range_lt {c m : Nat} (h : c ≤ m) : (List.range m).countP (fun k => decide (k < c)) = c := by
  obtain ⟨d, rfl⟩ := Nat.exists_eq_add_of_le h
  have hlow : (List.range c).countP (fun k => decide (k < c)) = c := by
    rw [List.countP_eq_length.mpr (by simp), List.length_range]
  have hhigh : ((List.range d).map (c + ·)).countP (fun k => decide (k < c)) = 0 := by
    simp
  rw [List.range_add, List.countP_append, hlow, hhigh, Nat.add_zero]

/-- Beside each opcode as many words are legal as it has operand bytes. -/
theorem countP_isLegal_of_opcode {op : Nat} (hop : op < 16) :
    ((List.range 256).countP fun k => isLegal (BitVec.ofNat 12 (op * 256 + k))) = operandCount op := by
  rw [← countP_range_lt (operandCount_le op)]
  refine List.countP_congr fun k hk => ?_
  have hk : k < 256 := List.mem_range.mp hk
  obtain ⟨hopField, hdataField⟩ : (opField (BitVec.ofNat 12 (op * 256 + k))).toNat = op ∧
      (dataField (BitVec.ofNat 12 (op * 256 + k))).toNat = k := by
    simp only [opField, dataField, BitVec.extractLsb'_toNat, BitVec.toNat_ofNat, Nat.shiftRight_eq_div_pow]
    omega
  rw [isLegal_iff, hopField, hdataField, decide_eq_true_iff]

/-- Settles O4: the numbers of operand bytes that are legal beside the sixteen opcodes, added up. -/
theorem legalWordsCounted : Obligations.LegalWordsCounted := by
  have hopcodes : ((List.range 16).map fun op => (List.range 256).countP fun k =>
      isLegal (BitVec.ofNat 12 (op * 256 + k))) = (List.range 16).map operandCount :=
    List.map_congr_left fun op hop => countP_isLegal_of_opcode (List.mem_range.mp hop)
  rw [Obligations.LegalWordsCounted, ← List.countP_eq_length_filter, show 4096 = 16 * 256 from rfl, countP_range_mul,
    hopcodes]
  rfl

theorem length_filter_not {α : Type} (p : α → Bool) (l : List α) :
    (l.filter fun x => !p x).length = l.length - (l.filter p).length := by
  rw [List.length_eq_length_filter_add (l := l) p, Nat.add_sub_cancel_left]

theorem count_reserved : ((List.range 4096).filter fun n => !isLegal (BitVec.ofNat 12 n)).length = 3318 := by
  have hlegal : ((List.range 4096).filter fun n => isLegal (BitVec.ofNat 12 n)).length = 778 := legalWordsCounted
  rw [length_filter_not, hlegal, List.length_range]

/-! ### The opcode map -/

theorem commandWord_eq_iff {op op' : BitVec 4} {d d' : Byte} :
    commandWord op d = commandWord op' d' ↔ op = op' ∧ d = d' := by
  refine ⟨fun h => ?_, fun ⟨hop, hd⟩ => by rw [hop, hd]⟩
  exact ⟨by simpa using congrArg opField h, by simpa using congrArg dataField h⟩

/-- The row that fixes the opcode and leaves the low `k` bits of the operand byte free (R54). -/
def rowOf (op : BitVec 4) (k : Nat) : OpcodeRow := ⟨commandWord op 0, commandWord 0xF (BitVec.allOnes 8 <<< k)⟩

theorem opcodeRows_eq : opcodeRows =
    [rowOf 0 0, rowOf 1 0, rowOf 2 8, rowOf 3 1, rowOf 4 8, rowOf 5 2, rowOf 6 0, rowOf 7 8, rowOf 8 0] := rfl

theorem and_allOnes_shiftLeft_eq_zero_iff {d : Byte} {k : Nat} :
    d &&& (BitVec.allOnes 8 <<< k) = 0 ↔ d.toNat < 2 ^ k := by
  rw [← BitVec.shiftLeft_ushiftRight, ← BitVec.toNat_inj, BitVec.toNat_shiftLeft, BitVec.toNat_ushiftRight,
    Nat.shiftRight_eq_div_pow, Nat.shiftLeft_eq, Nat.mod_eq_of_lt ((Nat.div_mul_le_self _ _).trans_lt d.isLt)]
  simp [Nat.div_eq_zero_iff]

/-- A row is selected by the words with its opcode and an operand byte of its free bits alone (R54). -/
theorem selects_rowOf {op : BitVec 4} {k : Nat} {w : CommandWord} :
    (rowOf op k).selects w = true ↔ (opField w).toNat = op.toNat ∧ (dataField w).toNat < 2 ^ k := by
  have hand : w &&& (rowOf op k).mask = commandWord (opField w) (dataField w &&& (BitVec.allOnes 8 <<< k)) := by
    conv_lhs => rw [← commandWord_opField_dataField w]
    exact BitVec.and_append.trans (congrArg (· ++ _) BitVec.and_allOnes)
  rw [OpcodeRow.selects, beq_iff_eq, hand, rowOf, commandWord_eq_iff, and_allOnes_shiftLeft_eq_zero_iff, BitVec.toNat_inj]

/-- A legal word selects the row of its opcode alone, a reserved word none (R54, R55). -/
theorem countP_selects (w : CommandWord) :
    opcodeRows.countP (fun r => r.selects w) = if isLegal w then 1 else 0 := by
  simp only [opcodeRows_eq, List.countP_cons, List.countP_nil, selects_rowOf, isLegal_iff]
  have hdata : (dataField w).toNat < 256 := (dataField w).isLt
  obtain ⟨hop | hop | hop | hop, hc⟩ | ⟨hop | hop | hop, hc⟩ | ⟨hop, hc⟩ | ⟨hop, hc⟩ | ⟨hop, hc⟩ :=
    operandCount_cases (opField w).toNat <;> rw [hc]
  case inr.inr.inr.inr =>
    have hne : ∀ k < 9, (opField w).toNat ≠ k := fun k hk => by omega
    simp [hne]
  all_goals simp [hop, hdata]

/-- Settles O5: the number of rows selected is 1 or 0, as the word is legal or not. -/
theorem opcodeRowsDisjointAndComplete : Obligations.OpcodeRowsDisjointAndComplete := by
  intro w
  have hcount := countP_selects w
  have hany : (opcodeRows.any fun r => r.selects w) = true ↔ 0 < opcodeRows.countP fun r => r.selects w := by
    rw [List.any_eq_true, List.countP_pos_iff]
  rw [← List.countP_eq_length_filter, Bool.eq_iff_iff, hany, hcount]
  cases isLegal w <;> simp

/-! ### Reserved words and samples -/

/-- Settles O3: the four cases of R55, their number, and the fault of a reserved word. -/
theorem reservedWordsRaiseIllegalCommand : Obligations.ReservedWordsRaiseIllegalCommand := by
  refine ⟨fun w => ⟨?_, fun s ⟨_, hr⟩ => runCommand_of_reserved hr s⟩, count_reserved, ?_, ?_⟩
  · rw [← isLegal_eq_false_iff_exists, isLegal_eq_false_iff, aboveSel_dataField, aboveIndex_dataField]
    rfl
  · exact decodeOfEncode .nop
  · exact isLegal_eq_false_iff.mpr (.inl (by decide))

/-- Settles O7: each sample is the word of its instruction, and the two reserved ones are cases (b) and (a) of R55. -/
theorem sampleWordsDecode : Obligations.SampleWordsDecode :=
  ⟨decodeOfEncode .nop, decodeOfEncode .crcInit, decodeOfEncode (.crcByte 0x42), decodeOfEncode (.crcRd 1),
    decodeOfEncode (.frmBuild 0xF8), decodeOfEncode (.frmRd 2), decodeOfEncode .rspClr, decodeOfEncode (.rspPush 0x11),
    decodeOfEncode .cmp, decodeOfEncode (.resetFrame 0x01 0x80 0x11),
    isLegal_eq_false_iff.mpr (.inr (.inl (by decide))), isLegal_eq_false_iff.mpr (.inl (by decide))⟩

end Sys2Proof.Machine
end

section
/-! SUPPORT. The checksum functions: one bit step as a shift and a feedback word, hence its bits (O18), its linearity (O22), the
bit-serial form (O21) and the zero residue (O23); then the definitions' own equations (O19, O20). -/

namespace Sys2Proof.Machine

/-! ### One bit step -/

/-- What a bit step exclusive-ors in after the shift, by the bit shifted out (R64). -/
def feedback (b : Bool) : Acc := if b then Config.crcPoly else 0

theorem feedback_xor (b c : Bool) : feedback (b ^^ c) = feedback b ^^^ feedback c := by
  cases b <;> cases c <;> rfl

theorem getLsbD_feedback (b : Bool) (n : Nat) : (feedback b).getLsbD n = (b && Config.crcPoly.getLsbD n) := by
  cases b
  · exact BitVec.getLsbD_zero
  · rfl

/-- A bit step of the bit-serial form is a shift and a feedback (R76). -/
theorem serialStep_eq (a : Acc) (b : Bool) : serialStep a b = (a >>> 1) ^^^ feedback (a.getLsbD 0 ^^ b) := by
  rw [serialStep, feedback]
  split
  · rfl
  · exact BitVec.xor_zero.symm

/-- A bit step is a shift and a feedback (R64). -/
theorem bitstep_eq (a : Acc) : bitstep a = (a >>> 1) ^^^ feedback (a.getLsbD 0) := by
  have hserial : bitstep a = serialStep a false := by rw [bitstep, serialStep, Bool.xor_false]
  rw [hserial, serialStep_eq, Bool.xor_false]

theorem getLsbD_bitstep (a : Acc) (n : Nat) :
    (bitstep a).getLsbD n = (a.getLsbD (n + 1) ^^ (a.getLsbD 0 && Config.crcPoly.getLsbD n)) := by
  rw [bitstep_eq, BitVec.getLsbD_xor, BitVec.getLsbD_ushiftRight, getLsbD_feedback, Nat.add_comm]

/-- Settles O18: each result bit is the bit above it and, where `0xA001` has a 1, bit 0. -/
theorem bitstepBitByBit : Obligations.BitstepBitByBit := by
  intro a
  have hpoly : ∀ n < 13, 1 ≤ n → Config.crcPoly.getLsbD n = false := by decide
  have hmiddle (n : Nat) (h1 : 1 ≤ n) (h12 : n ≤ 12) : (bitstep a).getLsbD n = a.getLsbD (n + 1) := by
    rw [getLsbD_bitstep, hpoly n (by omega) h1, Bool.and_false, Bool.xor_false]
  refine ⟨bitstep_of_low_bit_set, bitstep_of_low_bit_clear, ?_, ?_, ?_, hmiddle, ?_⟩
  all_goals
    rw [getLsbD_bitstep]
    simp [Config.crcPoly]

/-! ### Linearity over exclusive-or (R77 (a)) -/

theorem bitstep_xor (x y : Acc) : bitstep (x ^^^ y) = bitstep x ^^^ bitstep y := by
  rw [bitstep_eq, bitstep_eq x, bitstep_eq y, BitVec.ushiftRight_xor_distrib, BitVec.getLsbD_xor, feedback_xor]
  ac_rfl

theorem bitsteps_xor (n : Nat) (x y : Acc) : bitsteps n (x ^^^ y) = bitsteps n x ^^^ bitsteps n y := by
  induction n generalizing x y with
  | zero => rfl
  | succ n ih => rw [bitsteps_succ, bitstep_xor, ih, ← bitsteps_succ, ← bitsteps_succ]

theorem xorByte_xor (x y : Acc) (d e : Byte) : xorByte (x ^^^ y) (d ^^^ e) = xorByte x d ^^^ xorByte y e := by
  rw [xorByte, xorByte, xorByte, BitVec.setWidth_xor]
  ac_rfl

theorem absorb_xor (x y : Acc) (d e : Byte) : absorb (x ^^^ y) (d ^^^ e) = absorb x d ^^^ absorb y e := by
  rw [absorb_eq, xorByte_xor, bitsteps_xor, absorb_eq, absorb_eq]

/-- Settles O22: the shift, the bit tested and the zero extension are linear, so the steps built from them are. -/
theorem absorbIsLinear : Obligations.AbsorbIsLinear :=
  ⟨bitstep_xor, rfl, absorb_xor, rfl⟩

/-! ### The bit-serial form (R76) -/

/-- A bit exclusive-ored in beside the feedback is one exclusive-ored into bit 0 before the step; the bits above it only shift. -/
theorem bitstep_xor_eq_serialStep (a v : Acc) : bitstep (a ^^^ v) = serialStep a (v.getLsbD 0) ^^^ (v >>> 1) := by
  rw [bitstep_eq, serialStep_eq, BitVec.ushiftRight_xor_distrib, BitVec.getLsbD_xor]
  ac_rfl

/-- After `n` data bits the two forms differ by the data bits still to come. -/
theorem bitsteps_xorByte_eq_serial (a : Acc) (d : Byte) (n : Nat) :
    bitsteps n (xorByte a d) =
      (List.range n).foldl (fun acc i => serialStep acc (d.getLsbD i)) a ^^^ (d.setWidth 16 >>> n) := by
  induction n with
  | zero => rfl
  | succ n ih =>
    have hbit : (d.setWidth 16 >>> n).getLsbD 0 = d.getLsbD n := by
      rw [BitVec.getLsbD_ushiftRight, BitVec.getLsbD_setWidth, Nat.add_zero]
      by_cases hn : n < 16
      · simp [hn]
      · simp [hn, BitVec.getLsbD_of_ge d n (by omega)]
    rw [bitsteps_succ_outer, ih, bitstep_xor_eq_serialStep, hbit, ← BitVec.shiftRight_add, List.range_succ, List.foldl_append]
    rfl

/-- A byte has no bits above the eighth. -/
theorem setWidth_ushiftRight_eight (d : Byte) : d.setWidth 16 >>> 8 = 0#16 := by
  rw [← BitVec.setWidth_ushiftRight (by omega), BitVec.ushiftRight_eq_zero le_rfl, BitVec.setWidth_zero]

/-- Settles O21: after all eight data bits none is to come. -/
theorem serialFormAgrees : Obligations.SerialFormAgrees := by
  intro a d
  rw [absorb_eq, bitsteps_xorByte_eq_serial, setWidth_ushiftRight_eight, BitVec.xor_zero]
  rfl

/-! ### The zero residue (R77 (b), (c)) -/

/-- While the bits that fall out are 0 the bit steps only shift. -/
theorem bitsteps_of_low_bits_clear {x : Acc} {n : Nat} (h : ∀ i < n, x.getLsbD i = false) : bitsteps n x = x >>> n := by
  induction n with
  | zero => rfl
  | succ n ih =>
    have hbit : (x >>> n).getLsbD 0 = false := by rw [BitVec.getLsbD_ushiftRight, Nat.add_zero, h n (by omega)]
    rw [bitsteps_succ_outer, ih fun i hi => h i (by omega), bitstep_of_low_bit_clear hbit, BitVec.shiftRight_add]

/-- The exclusive-or with its own low byte clears the low half of the accumulator. -/
theorem getLsbD_xorByte_lo (a : Acc) {i : Nat} (h8 : i < 8) : (xorByte a (lo a)).getLsbD i = false := by
  have h16 : i < 16 := by omega
  simp [xorByte, lo, h8, h16]

@[simp] theorem lo_setWidth (d : Byte) : lo (d.setWidth 16) = d :=
  (BitVec.extractLsb'_setWidth_of_le (by omega)).trans BitVec.extractLsb'_eq_self

@[simp] theorem hi_setWidth (d : Byte) : hi (d.setWidth 16) = 0 := by
  rw [hi, ← BitVec.setWidth_ushiftRight_eq_extractLsb, setWidth_ushiftRight_eight]
  rfl

theorem ushiftRight_eight_eq (a : Acc) : a >>> 8 = (hi a).setWidth 16 := by
  have ha : a.toNat < 65536 := a.isLt
  rw [← BitVec.toNat_inj, hi, BitVec.toNat_setWidth, BitVec.extractLsb'_toNat, BitVec.toNat_ushiftRight,
    Nat.shiftRight_eq_div_pow]
  omega

/-- Absorbing the accumulator's own low byte moves its high byte down (R77 (b)). -/
theorem absorb_lo (a : Acc) : absorb a (lo a) = (hi a).setWidth 16 := by
  rw [absorb_eq, bitsteps_of_low_bits_clear fun i => getLsbD_xorByte_lo a, xorByte, BitVec.ushiftRight_xor_distrib,
    setWidth_ushiftRight_eight, BitVec.xor_zero, ushiftRight_eight_eq]

/-- Absorbing both bytes of the accumulator, low first, leaves 0 (R77 (b)). -/
theorem absorb_lo_hi (a : Acc) : absorb (absorb a (lo a)) (hi a) = 0 := by
  rw [absorb_lo, absorb_eq, xorByte, BitVec.xor_self]
  rfl

theorem crc16_append (m n : List Byte) : crc16 (m ++ n) = absorbAll (crc16 m) n :=
  absorbAll_append _ m n

theorem crc16_append_checksum (m : List Byte) : crc16 (m ++ checksum m) = 0 := by
  rw [crc16_append, checksum]
  exact absorb_lo_hi (crc16 m)

/-- Settles O23: a message's checksum bytes are those of the accumulator it leaves, and a frame is two bytes with theirs. -/
theorem messageWithItsChecksumLeavesZero : Obligations.MessageWithItsChecksumLeavesZero := by
  refine ⟨fun a => ?_, absorb_lo_hi, crc16_append_checksum, fun a => crc16_append_checksum [a, Config.funcReset]⟩
  rw [absorb_lo]
  exact ⟨hi_setWidth (hi a), lo_setWidth (hi a)⟩

/-! ### The definitions' own equations -/

/-- Settles O19: a zero-extended byte has no bits in the high half. -/
theorem absorbIsXorThenEightSteps : Obligations.AbsorbIsXorThenEightSteps := by
  refine fun a d => ⟨rfl, ?_⟩
  have hhi : (d.setWidth 16).extractLsb' 8 8 = (0 : Byte) := hi_setWidth d
  rw [BitVec.extractLsb'_xor, hhi]
  exact BitVec.xor_zero

theorem crc16_worked_value : crc16 [0x01, 0x42] = 0x1180 := by
  have h01 : absorb Config.crcSeed 0x01 = 0x807E := by decide
  have h42 : absorb 0x807E 0x42 = 0x1180 := by decide
  calc crc16 [0x01, 0x42] = absorb (absorb Config.crcSeed 0x01) 0x42 := rfl
    _ = 0x1180 := by rw [h01, h42]

/-- Settles O20: a message is absorbed in order, so its last byte is absorbed last. -/
theorem checksumOfMessage : Obligations.ChecksumOfMessage := by
  refine ⟨rfl, fun m d => crc16_append m [d], fun m => rfl, rfl, crc16_worked_value, ?_⟩
  rw [checksum, crc16_worked_value]
  rfl

end Sys2Proof.Machine
end

section
/-! SUPPORT. The checksum engine's commands: what each does (O25, O26, O27), and a stream of them (O28). -/

namespace Sys2Proof.Machine

/-! ### The words of the three commands -/

/-- The word of an opcode and an operand byte, as its bits are written (R51). -/
theorem commandWord_eq_or (op : BitVec 4) (d : Byte) : commandWord op d = (op.setWidth 12 <<< 8) ||| d.setWidth 12 := by
  rw [commandWord, BitVec.append_def, BitVec.shiftLeftZeroExtend_eq, BitVec.setWidth'_eq]

/-- A word that is not legal raises `IllegalCommand` (R55, R56). -/
theorem runCommand_of_not_legal {w : CommandWord} (h : isLegal w = false) (s : State) :
    runCommand w s = .next (raise .illegalCommand s) := by
  obtain ⟨r, hr⟩ := isLegal_eq_false_iff_exists.mp h
  exact runCommand_of_reserved hr s

/-- A command without operand beside an operand byte that is not 0 (R55 (b)). -/
theorem isLegal_eq_false_of_operand_ne_zero {op : BitVec 4} {d : Byte} (hop : op = 0 ∨ op = 1 ∨ op = 6 ∨ op = 8)
    (hd : d ≠ 0) :
    isLegal (commandWord op d) = false := by
  rw [isLegal_eq_false_iff, opField_commandWord, dataField_commandWord]
  exact .inr (.inl ⟨hop, hd⟩)

/-- `CRC_RD` with a bit of `data[7:1]` set (R55 (c)). -/
theorem isLegal_eq_false_of_aboveSel_ne_zero {d : Byte} (hd : aboveSel d ≠ 0) : isLegal (commandWord 3 d) = false := by
  rw [isLegal_eq_false_iff, opField_commandWord, dataField_commandWord]
  exact .inr (.inr (.inl ⟨rfl, hd⟩))

/-- Settles O25: the word is the instruction's own, its effect is the definition's, and R55 (b) is the rest. -/
theorem crcInitLoadsSeed : Obligations.CrcInitLoadsSeed := by
  refine fun s => ⟨decodeOfEncode .crcInit, exec_eq_next_iff.mpr .crcInit, fun d hd => ?_⟩
  exact runCommand_of_not_legal (isLegal_eq_false_of_operand_ne_zero (.inr (.inl rfl)) hd) s

/-- Settles O26: every operand byte has its word, and the effect has no premise. -/
theorem crcByteAbsorbsOperand : Obligations.CrcByteAbsorbsOperand := by
  refine fun d s => ⟨?_, exec_eq_next_iff.mpr (.crcByte d)⟩
  exact decodeCommand_eq_ok_iff.mpr (congrArg Encoded.command (commandWord_eq_or 2 d))

/-- Settles O27: the two words are the instructions' own, the selector picks the byte, and R55 (c) is the rest. -/
theorem crcRdReadsOneByte : Obligations.CrcRdReadsOneByte := by
  refine fun s => ⟨decodeOfEncode (.crcRd 0), decodeOfEncode (.crcRd 1), exec_eq_next_iff.mpr (.crcRd 0),
    exec_eq_next_iff.mpr (.crcRd 1), fun d hd => ?_⟩
  exact runCommand_of_not_legal (isLegal_eq_false_of_aboveSel_ne_zero hd) s

/-! ### Streaming (R74) -/

/-- The message byte an instruction brings, if it is a `CRC_BYTE`. -/
def messageByte : Instr → Option Byte
  | .crcByte d => some d
  | _ => none

/-- An instruction that is no `CRC_INIT` and no `FRM_BUILD` absorbs its message byte, if it brings one (R14, R72). -/
theorem Effect.acc_of_streaming {i : Instr} {s t : State} (h : Effect s i t) (hinit : i ≠ .crcInit)
    (hbuild : ∀ a, i ≠ .frmBuild a) : t.acc = absorbAll s.acc (messageByte i).toList := by
  cases h with
  | crcInit => exact absurd rfl hinit
  | frmBuild a => exact absurd rfl (hbuild a)
  | nop | crcByte | crcRd | frmRd | frmRdFault | rspClr | rspPush | rspPushFault | cmpFull | cmpShort | cmpFault
  | resetFrame => rfl

/-- A stream takes exactly its message bytes into `ACC`, in order (R74). -/
theorem acc_of_runAll_streaming {is : List Instr} {s t : State} (his : ∀ i ∈ is, i ≠ .crcInit ∧ ∀ a, i ≠ .frmBuild a)
    (h : runAll is s = .next t) : t.acc = absorbAll s.acc (is.filterMap messageByte) := by
  induction is generalizing s with
  | nil => cases h; rfl
  | cons i is ih =>
    obtain ⟨u, hu, ht⟩ := andThen_eq_next h
    obtain ⟨hinit, hbuild⟩ := his i (by simp)
    have hacc : u.acc = absorbAll s.acc (messageByte i).toList := (effect_of_exec hu).acc_of_streaming hinit hbuild
    rw [ih (fun j hj => his j (by simp [hj])) ht, hacc, ← absorbAll_append]
    cases hi : messageByte i <;> simp [hi]

/-- A message taken byte by byte, after a command that completed with data 0x00. -/
theorem runAll_map_crcByte (m : List Byte) (a : Acc) (s : State) :
    runAll (m.map .crcByte) (complete 0x00 (setAcc a s)) = .next (complete 0x00 (setAcc (absorbAll a m) s)) := by
  induction m generalizing a with
  | nil => rfl
  | cons d m ih => exact ih (absorb a d)

/-- `CRC_MSG` leaves the checksum of its bytes (R62, R74). -/
theorem runAll_crcMsg (m : List Byte) (s : State) : runAll (crcMsg m) s = .next (complete 0x00 (setAcc (crc16 m) s)) :=
  runAll_map_crcByte m Config.crcSeed s

/-- The two completions of `CRC_OUT` are the emitted pair (R60, R73). -/
theorem gather_crcOut (s : State) :
    gather crcOut s = .next (complete (hi s.acc) s, [⟨false, lo s.acc⟩, ⟨false, hi s.acc⟩]) :=
  gather_cons (exec_eq_next_iff.mpr (.crcRd 0)) <| gather_cons (exec_eq_next_iff.mpr (.crcRd 1)) <| gather_nil _

/-- Settles O28: the stream command by command, the message after its `CRC_INIT`, and the two reads. -/
theorem streamedBytesGiveChecksum : Obligations.StreamedBytesGiveChecksum := by
  refine ⟨fun is s t his h => ?_, runAll_crcMsg, gather_crcOut⟩
  exact acc_of_runAll_streaming his h

end Sys2Proof.Machine
end

section
/-! SUPPORT. The frame builder: a bit step loses nothing, so the frames differ in their checksum bytes (O33); the frame part of the
invariant (O34); the effects of `FRM_BUILD` (O30) and `FRM_RD` (O31). -/

namespace Sys2Proof.Machine

/-! ### The checksum loses nothing (R81) -/

/-- The bit shifted out comes back as bit 15, where the polynomial has a 1 (R64). -/
theorem getLsbD_bitstep_fifteen (a : Acc) : (bitstep a).getLsbD 15 = a.getLsbD 0 := by
  have habove : a.getLsbD 16 = false := BitVec.getLsbD_of_ge a 16 le_rfl
  have hpoly : Config.crcPoly.getLsbD 15 = true := rfl
  rw [getLsbD_bitstep, habove, hpoly, Bool.false_xor, Bool.and_true]

theorem bitstep_injective : Function.Injective bitstep := by
  intro a b h
  have hlow : a.getLsbD 0 = b.getLsbD 0 := by rw [← getLsbD_bitstep_fifteen, h, getLsbD_bitstep_fifteen]
  refine BitVec.eq_of_getLsbD_eq fun n _ => ?_
  cases n with
  | zero => exact hlow
  | succ n =>
    have hbit : (bitstep a).getLsbD n = (bitstep b).getLsbD n := by rw [h]
    rw [getLsbD_bitstep, getLsbD_bitstep, hlow] at hbit
    exact Bool.xor_left_inj.mp hbit

theorem bitsteps_injective (n : Nat) : Function.Injective (bitsteps n) := by
  induction n with
  | zero => exact Function.injective_id
  | succ n ih => exact ih.comp bitstep_injective

/-- A byte absorbed into different values leaves different values. -/
theorem absorb_left_injective (d : Byte) : Function.Injective fun a => absorb a d :=
  fun _ _ h => (BitVec.xor_left_inj _).mp (bitsteps_injective 8 h)

/-- Different bytes absorbed into a value leave different values. -/
theorem absorb_right_injective (a : Acc) : Function.Injective (absorb a) := by
  intro d e h
  have hwide : d.setWidth 16 = e.setWidth 16 := (BitVec.xor_right_inj a).mp (bitsteps_injective 8 h)
  rw [← lo_setWidth d, hwide, lo_setWidth]

/-- A checksum is known from its two bytes (R67). -/
theorem eq_of_lo_eq_of_hi_eq {c c' : Acc} (hlo : lo c = lo c') (hhi : hi c = hi c') : c = c' := by
  have hself : hi c ++ lo c = c := append_eq_iff.mpr ⟨rfl, rfl⟩
  rw [← hself, append_eq_iff]
  exact ⟨hlo, hhi⟩

/-- Settles O33: equal checksum bytes are an equal checksum, and absorbing `0x42` and the address are both one to one. -/
theorem framesDifferInChecksum : Obligations.FramesDifferInChecksum := by
  refine ⟨fun a => rfl, ?_, fun a b hlo hhi => ?_⟩
  · rw [frameOf, show Config.funcReset = 0x42 from rfl, crc16_worked_value]
    rfl
  · have hcrc : crc16 [a, Config.funcReset] = crc16 [b, Config.funcReset] := eq_of_lo_eq_of_hi_eq hlo hhi
    exact absorb_right_injective _ (absorb_left_injective _ hcrc)

/-! ### The frame part of the invariant (R83) -/

/-- `FRM_BUILD` stores the frame of its address, every other word leaves the frame as it was. -/
theorem frameOk_runCommand {w : CommandWord} {s t : State} (hs : frameOk s) (h : runCommand w s = .next t) : frameOk t := by
  by_cases hw : ∃ a, decodeCommand w = .ok (.frmBuild a)
  · obtain ⟨a, ha⟩ := hw
    simp only [runCommand, ha] at h
    cases effect_of_exec h
    exact ⟨fun _ => rfl, fun hv => by cases hv⟩
  · obtain ⟨hframe, hfvalid⟩ := runCommand_keeps_frame (not_exists.mp hw) h
    simpa only [frameOk, hframe, hfvalid] using hs

/-- Settles O34: a valid frame is its address's, whose bytes are the function code and the checksum by definition. -/
theorem builtFrameIsWellFormed : Obligations.BuiltFrameIsWellFormed := by
  obtain ⟨hreset, -⟩ := archOk_blockReset State.reset
  refine ⟨hreset, fun w s t => frameOk_runCommand, fun s ⟨hbuilt, _⟩ hv => ?_, fun a => ⟨rfl, rfl⟩⟩
  exact ⟨_, _, _, _, hbuilt hv, rfl, rfl, rfl⟩

/-! ### The two commands -/

/-- Settles O30: the word is the instruction's own, and its effect is the definition's in every state. -/
theorem frmBuildWritesFrame : Obligations.FrmBuildWritesFrame :=
  fun a _ => ⟨decodeCommand_frmBuild_word a, exec_eq_next_iff.mpr (.frmBuild a)⟩

theorem quadBytes_getElem! (q : Quad Byte) (i : BitVec 2) : (quadBytes q)[i.toNat]! = quadAt q i := by
  match i with
  | 0 | 1 | 2 | 3 => rfl

theorem decodeCommand_frmRd_word (i : BitVec 2) : decodeCommand (0x500 ||| i.setWidth 12) = .ok (.frmRd i) := by
  have hwiden : (i.setWidth 8).setWidth 12 = i.setWidth 12 := BitVec.setWidth_setWidth (by omega)
  rw [decodeCommand_eq_ok_iff, ← hwiden]
  exact congrArg Encoded.command (commandWord_eq_or 5 (i.setWidth 8))

/-- `FRM_RD` with a bit of `data[7:2]` set (R55 (d)). -/
theorem isLegal_eq_false_of_aboveIndex_ne_zero {d : Byte} (hd : aboveIndex d ≠ 0) : isLegal (commandWord 5 d) = false := by
  rw [isLegal_eq_false_iff, opField_commandWord, dataField_commandWord]
  exact .inr (.inr (.inr ⟨rfl, hd⟩))

/-- Settles O31: a built frame is read at the index, without one the effect is the fault, and R55 (d) is the rest. -/
theorem frmRdReadsBuiltFrame : Obligations.FrmRdReadsBuiltFrame := by
  refine fun i s => ⟨decodeCommand_frmRd_word i, fun q hv hf => ?_, fun hv => exec_eq_next_iff.mpr (.frmRdFault i hv),
    fun d hd => runCommand_of_not_legal (isLegal_eq_false_of_aboveIndex_ne_zero hd) s⟩
  rw [quadBytes_getElem!]
  exact exec_frmRd_of_built hv hf i

end Sys2Proof.Machine
end

section
/-! SUPPORT. The comparator: `eq4` (O41), the response buffer's commands (O37, O38), what `CMP` answers (O39, O40), and that a
second `CMP` finds what the first one did (O42). -/

namespace Sys2Proof.Machine

/-! ### The comparison of four bytes (R91) -/

theorem eq4_eq_decide (f r : Quad Byte) : eq4 f r = decide (f = r) :=
  Bool.eq_iff_iff.mpr (eq4_eq_true_iff.trans decide_eq_true_iff.symm)

theorem eq4_comm (f r : Quad Byte) : eq4 f r = eq4 r f := by
  rw [eq4_eq_decide, eq4_eq_decide, decide_eq_decide]
  exact eq_comm

/-- Settles O41: `eq4` is the decision of equality, and its definition is the conjunction. -/
theorem eqFourIsEquality : Obligations.EqFourIsEquality :=
  fun f r => ⟨eq4_eq_true_iff, eq4_comm f r, rfl⟩

/-- The completion byte of a comparison is 1 or 0 (R52, R94). -/
theorem matchByte_decide (p : Prop) [Decidable p] : matchByte (decide p) = if p then 0x01 else 0x00 := by
  split
  case isTrue hp => rw [decide_eq_true hp]; rfl
  case isFalse hp => rw [decide_eq_false hp]; rfl

/-! ### The response buffer (R92, R93) -/

/-- Settles O37: the word is the instruction's own, its effect is the definition's, and R55 (b) is the rest. -/
theorem rspClrEmptiesBuffer : Obligations.RspClrEmptiesBuffer := by
  refine fun s => ⟨decodeOfEncode .rspClr, exec_eq_next_iff.mpr .rspClr, fun d hd => ?_⟩
  exact runCommand_of_not_legal (isLegal_eq_false_of_operand_ne_zero (.inr (.inr (.inl rfl))) hd) s

theorem decodeCommand_rspPush_word (d : Byte) : decodeCommand (0x700 ||| d.setWidth 12) = .ok (.rspPush d) :=
  decodeCommand_eq_ok_iff.mpr (congrArg Encoded.command (commandWord_eq_or 7 d))

/-- A put below index 4, byte by byte: the new value at the index, the old ones elsewhere (R93). -/
theorem quadPut_bytes {α : Type} (q : Quad α) {n : BitVec 3} (hn : n < 4) (v : α) :
    (quadPut q n.toNat v).b0 = (if n = 0 then v else q.b0) ∧ (quadPut q n.toNat v).b1 = (if n = 1 then v else q.b1) ∧
      (quadPut q n.toNat v).b2 = (if n = 2 then v else q.b2) ∧ (quadPut q n.toNat v).b3 = (if n = 3 then v else q.b3) := by
  obtain rfl | rfl | rfl | rfl : n = 0 ∨ n = 1 ∨ n = 2 ∨ n = 3 := by bv_omega
  all_goals exact ⟨rfl, rfl, rfl, rfl⟩

/-- Settles O38: below four bytes the buffer is the one with the byte put at `RCNT`, at four the effect is the fault. -/
theorem rspPushAppendsByte : Obligations.RspPushAppendsByte := by
  refine fun d s => ⟨decodeCommand_rspPush_word d, fun hlt => ?_, fun h4 => exec_eq_next_iff.mpr (.rspPushFault d h4)⟩
  exact ⟨quadPut s.resp s.rcnt.toNat (some d), exec_eq_next_iff.mpr (.rspPush d hlt), quadPut_bytes s.resp hlt (some d)⟩

/-! ### What `CMP` answers (R94, R95) -/

theorem exec_cmp_of_full {f r : Quad Byte} {s : State} (hv : s.fvalid = true) (h4 : s.rcnt = 4)
    (hf : s.frame = quadFull f) (hr : s.resp = quadFull r) :
    exec .cmp s = .next (complete (if f = r then 0x01 else 0x00) (setMatch (decide (f = r)) s)) := by
  rw [← matchByte_decide, ← eq4_eq_decide]
  exact exec_eq_next_iff.mpr (.cmpFull hv h4 hf hr)

theorem exec_cmp_of_short {s : State} (hv : s.fvalid = true) (h4 : s.rcnt ≠ 4) :
    exec .cmp s = .next (complete 0x00 (setMatch false s)) :=
  exec_eq_next_iff.mpr (.cmpShort hv h4)

/-- Settles O39: the branches are the three effects of `CMP`, and R55 (b) is the rest. -/
theorem cmpComparesFourBytes : Obligations.CmpComparesFourBytes := by
  refine fun s => ⟨decodeOfEncode .cmp, fun hv => exec_eq_next_iff.mpr (.cmpFault hv), fun f r => exec_cmp_of_full,
    exec_cmp_of_short, fun d hd => ?_⟩
  exact runCommand_of_not_legal (isLegal_eq_false_of_operand_ne_zero (.inr (.inr (.inr rfl))) hd) s

/-- Settles O40: fewer than four bytes is not four, whatever they are. -/
theorem shortReadIsNoMatch : Obligations.ShortReadIsNoMatch := by
  intro s hv hlt
  have h4 : s.rcnt ≠ 4 := by bv_omega
  exact exec_cmp_of_short hv h4

/-! ### A second `CMP` (R98) -/

/-- The first cause stays, so the same fault raised again writes what is there (R106). -/
theorem raise_raise (c : Cause) (s : State) : raise c (raise c s) = raise c s := rfl

/-- `CMP` leaves the buffers, `FVALID` and `RCNT` it reads, and a fault raised twice is one, so a second `CMP` has the same
effect (R98). -/
theorem Effect.cmp_repeats {s t : State} (h : Effect s .cmp t) : Effect t .cmp t := by
  cases h with
  | cmpFull hv h4 hf hr => exact .cmpFull (s := complete _ (setMatch _ s)) hv h4 hf hr
  | cmpShort hv h4 => exact .cmpShort (s := complete _ (setMatch _ s)) hv h4
  | cmpFault hv =>
    have hfault : Effect (raise .frameNotBuilt s) .cmp (raise .frameNotBuilt (raise .frameNotBuilt s)) := .cmpFault hv
    rwa [raise_raise] at hfault

/-- Settles O42: `CMP` is no writer of the buffer, and what it reads it leaves, so a push goes on where the buffer stands. -/
theorem cmpIsRepeatable : Obligations.CmpIsRepeatable := by
  intro s t h
  have he := effect_of_exec h
  obtain ⟨hresp, hrcnt⟩ := he.resp_written_by.resolve_right (by simp)
  refine ⟨hresp, hrcnt, exec_eq_next_iff.mpr he.cmp_repeats, fun d hlt => ?_⟩
  rw [← hrcnt] at hlt
  exact ⟨_, exec_eq_next_iff.mpr (.rspPush d hlt), by simp [hresp, hrcnt], by simp [hrcnt], rfl⟩

end Sys2Proof.Machine
end

section
/-! SUPPORT. The control family: `NOP` (O24). -/

namespace Sys2Proof.Machine

/-- Settles O24: the word is the instruction's own, its effect is the completion alone, and R55 (b) is the rest. -/
theorem nopWritesNothing : Obligations.NopWritesNothing := by
  refine fun s => ⟨decodeOfEncode .nop, exec_eq_next_iff.mpr .nop, fun d hd => ?_⟩
  exact runCommand_of_not_legal (isLegal_eq_false_of_operand_ne_zero (.inl rfl) hd) s

end Sys2Proof.Machine
end

section
/-! SUPPORT. The block's faults: the fault entry (O46), which commands take one (O47), and that a decode fault comes first
(O48). -/

namespace Sys2Proof.Machine

/-! ### The fault entry (R106) -/

/-- The first fault records its own code. -/
theorem raise_of_err_false (c : Cause) {s : State} (h : s.err = false) :
    raise c s = { s with cause := causeCode c, err := true, rsp := some ⟨true, 0x00⟩ } := by
  simp [raise, h]

/-- A later fault leaves the code recorded. -/
theorem raise_of_err_true (c : Cause) {s : State} (h : s.err = true) :
    raise c s = { s with err := true, rsp := some ⟨true, 0x00⟩ } := by
  simp [raise, h]

/-- Settles O46: the first fault records its code, a later one none. -/
theorem faultEntryRecordsFirstCause : Obligations.FaultEntryRecordsFirstCause := by
  refine ⟨rfl, rfl, rfl, fun c s => ?_⟩
  cases h : s.err
  · rw [raise_of_err_false c h, if_pos rfl]
  · rw [raise_of_err_true c h, if_neg (by simp)]

/-- Settles O48: both words are reserved whatever the state, and with `ERR = 0` the fault's code is recorded. -/
theorem decodeFaultWins : Obligations.DecodeFaultWins := by
  intro d s _ herr
  have hfault : raise .illegalCommand s = { s with err := true, cause := 1, rsp := some ⟨true, 0x00⟩ } :=
    raise_of_err_false .illegalCommand herr
  rw [← hfault]
  refine ⟨fun hd => ?_, fun hd => ?_⟩
  · exact runCommand_of_not_legal (isLegal_eq_false_of_aboveIndex_ne_zero hd) s
  · exact runCommand_of_not_legal (isLegal_eq_false_of_operand_ne_zero (.inr (.inr (.inr rfl))) hd) s

/-! ### Which commands fault (R105, R108, R109) -/

/-- A fifth push, or a read or comparison without a frame: what makes an instruction fault. -/
def faultsIn (i : Instr) (s : State) : Prop :=
  ((∃ d, i = .rspPush d) ∧ s.rcnt = 4) ∨ (((∃ n, i = .frmRd n) ∨ i = .cmp) ∧ s.fvalid = false)

/-- An instruction takes a fault in those cases; in all others it leaves `ERR` and completes with `err = 0`, if at all. -/
theorem Effect.faults_or_completes {i : Instr} {s t : State} (h : Effect s i t) :
    (faultsIn i s ∧ ∃ c, t = raise c s) ∨ (¬ faultsIn i s ∧ t.err = s.err ∧ ∀ c, t.rsp = some c → c.err = false) := by
  cases h with
  | frmRdFault n hv => exact .inl ⟨.inr ⟨.inl ⟨n, rfl⟩, hv⟩, _, rfl⟩
  | rspPushFault d h4 => exact .inl ⟨.inl ⟨⟨d, rfl⟩, h4⟩, _, rfl⟩
  | cmpFault hv => exact .inl ⟨.inr ⟨.inr rfl, hv⟩, _, rfl⟩
  | rspPush d hlt =>
    have h4 : s.rcnt ≠ 4 := by bv_omega
    exact .inr ⟨by simpa [faultsIn] using h4, rfl, by simp⟩
  | frmRd hv | cmpFull hv | cmpShort hv => exact .inr ⟨by simp [faultsIn, hv], rfl, by simp⟩
  | nop | crcInit | crcByte | crcRd | frmBuild | rspClr | resetFrame => exact .inr ⟨by simp [faultsIn], rfl, by simp⟩

/-- A word faults when it is reserved or its instruction does; then its whole effect is a fault entry. -/
theorem runCommand_faults_or_completes {w : CommandWord} {s t : State} (h : runCommand w s = .next t) :
    (((∃ r, decodeCommand w = .error r) ∨ ∃ i, decodeCommand w = .ok i ∧ faultsIn i s) ∧ ∃ c, t = raise c s) ∨
      ((∃ i, decodeCommand w = .ok i ∧ ¬ faultsIn i s) ∧ ∀ c, t.rsp = some c → c.err = false) := by
  obtain ⟨i, hd, he⟩ | ⟨hr, rfl⟩ := runCommand_eq_next_iff.mp h
  · obtain ⟨hf, hc⟩ | ⟨hf, -, hc⟩ := he.faults_or_completes
    · exact .inl ⟨.inr ⟨i, hd, hf⟩, hc⟩
    · exact .inr ⟨⟨i, hd, hf⟩, hc⟩
  · exact .inl ⟨.inl hr, _, rfl⟩

/-- Settles O47: the causes are those of the word's instruction, and a fault entry completes with `err = 1`. -/
theorem faultsOnlyForTheThreeCauses : Obligations.FaultsOnlyForTheThreeCauses := by
  intro w s t h
  obtain ⟨hcause, c, rfl⟩ | ⟨⟨i, hd, hf⟩, hok⟩ := runCommand_faults_or_completes h
  · refine ⟨iff_of_true ⟨_, rfl, rfl⟩ ?_, fun _ => ⟨c, rfl⟩⟩
    obtain hr | ⟨i, hd, hf⟩ := hcause
    · exact .inl hr
    · exact .inr (by simpa [hd, faultsIn] using hf)
  · have hno : ¬ ∃ c, t.rsp = some c ∧ c.err = true := fun ⟨c, hc, herr⟩ => by simp [hok c hc] at herr
    exact ⟨iff_of_false hno (by simpa [hd, faultsIn] using hf), fun hyes => absurd hyes hno⟩

end Sys2Proof.Machine
end

section
/-! SUPPORT. The host's duties: what it remembers stays true, and the duties keep every fault away (O51). -/

namespace Sys2Proof.Machine

/-! ### What the host remembers (R131) -/

theorem viewHolds_afterReset (s : State) : viewHolds .afterReset (blockReset s) :=
  ⟨nofun, nofun, fun _ hm => by cases hm; rfl⟩

/-- What the host remembers of a block stays true when it adds the instruction it has issued, dutiful or not. -/
theorem Effect.viewHolds_after {i : Instr} {s t : State} {v : HostView} (h : Effect s i t) (hv : viewHolds v s) :
    viewHolds (v.after i) t := by
  obtain ⟨hbuilt, hpushed, hstream⟩ := hv
  cases h with
  | nop | crcRd | resetFrame => exact ⟨hbuilt, hpushed, hstream⟩
  | crcInit => exact ⟨hbuilt, hpushed, fun _ hm => by cases hm; rfl⟩
  | crcByte d =>
    refine ⟨hbuilt, hpushed, fun m hm => ?_⟩
    obtain ⟨m', hm', rfl⟩ := Option.map_eq_some_iff.mp hm
    show absorb s.acc d = crc16 (m' ++ [d])
    rw [hstream m' hm', crc16_append]
    rfl
  | frmBuild a => exact ⟨fun _ => rfl, nofun, nofun⟩
  | frmRd | frmRdFault =>
    refine ⟨hbuilt, fun hc => hpushed ?_, hstream⟩
    simp only [HostView.after] at hc
    split at hc
    · cases hc
    · exact hc
  | rspClr => exact ⟨hbuilt, fun _ => Nat.zero_le _, hstream⟩
  | rspPush d hlt =>
    refine ⟨hbuilt, fun hc => ?_, hstream⟩
    have hle : s.rcnt.toNat ≤ v.pushed := hpushed hc
    show (s.rcnt + 1).toNat ≤ v.pushed + 1
    bv_omega
  | rspPushFault d h4 => exact ⟨hbuilt, fun hc => Nat.le_succ_of_le (hpushed hc), hstream⟩
  | cmpFull | cmpShort | cmpFault => exact ⟨hbuilt, nofun, hstream⟩

/-! ### A dutiful host (R131 (c), (e), (f)) -/

/-- A frame read or compared was built, and a byte pushed is no fifth. -/
theorem not_faultsIn_of_allows {i : Instr} {s : State} {v : HostView} (hv : viewHolds v s) (h : v.allows i = true) :
    ¬ faultsIn i s := by
  obtain ⟨hbuilt, hpushed, -⟩ := hv
  rintro (⟨⟨d, rfl⟩, h4⟩ | ⟨⟨n, rfl⟩ | rfl, hno⟩)
  · simp only [HostView.allows, Bool.and_eq_true, beq_iff_eq] at h
    obtain ⟨⟨-, hcleared⟩, hlt⟩ := h
    have hle := hpushed hcleared
    rw [h4] at hle
    exact absurd (of_decide_eq_true hlt) (Nat.not_lt.mpr hle)
  · simp only [HostView.allows, Bool.and_eq_true] at h
    exact absurd (hbuilt h.2) (by simp [hno])
  · simp only [HostView.allows, Bool.and_eq_true] at h
    obtain ⟨⟨-, hb⟩, -⟩ := h
    exact absurd (hbuilt hb) (by simp [hno])

/-- An event that keeps the duties answers without a fault, and what the host then remembers is true. -/
theorem takeEvent_of_allowed {e : HostEvent} {s : State} {v : HostView} (hs : BlockInv s) (hv : viewHolds v s)
    (herr : s.err = false) (h : v.allowsEvent e = true) :
    ∃ t, takeEvent e s = .next t ∧ t.err = false ∧ BlockInv t ∧ viewHolds (v.afterEvent e) t := by
  cases e with
  | idle => exact ⟨_, rfl, herr, hs, hv⟩
  | assertRst => exact ⟨_, rfl, rfl, blockInv_blockReset s, viewHolds_afterReset s⟩
  | word w =>
    cases hd : decode w with
    | error r => simp [HostView.allowsEvent, hd] at h
    | ok i =>
      simp only [HostView.allowsEvent, hd] at h
      obtain ⟨t, ht, hinv⟩ := exec_answers hs i
      have he := effect_of_exec ht
      refine ⟨t, (takeEvent_word_of_decode hd s).trans ht, ?_, hinv, ?_⟩
      · obtain ⟨hf, -⟩ | ⟨-, hkept, -⟩ := he.faults_or_completes
        · exact absurd hf (not_faultsIn_of_allows hv h)
        · exact hkept.trans herr
      · simpa only [HostView.afterEvent, hd] using he.viewHolds_after hv

/-- Settles O51, by induction on the events: each answers without a fault and leaves the premises for the next. -/
theorem dutifulHostNeverFaults : Obligations.DutifulHostNeverFaults := by
  intro es
  induction es with
  | nil => exact fun v s hs hv herr _ => ⟨s, rfl, herr, hs, hv, rfl, rfl⟩
  | cons e es ih =>
    intro v s hs hv herr hkeeps
    obtain ⟨hallowed, hrest⟩ := (keepsOrder_cons v e es).mp hkeeps
    obtain ⟨u, hu, huerr, huinv, huview⟩ := takeEvent_of_allowed hs hv herr hallowed
    obtain ⟨t, ht, hterr, htinv, htview, hheeds, -⟩ := ih (v.afterEvent e) u huinv huview huerr hrest
    have hheeds' : heedsErr (e :: es) s = true := (heedsErr_cons herr hu).trans hheeds
    refine ⟨t, ?_, hterr, htinv, htview, hheeds', ?_⟩
    · rw [runEvents_cons, hu, andThen_next, ht]
    · rw [dutiesKept, hkeeps, hheeds', Bool.and_self]

end Sys2Proof.Machine
end

section
/-! SUPPORT. The exchange: what its commands do to a block with a frame and no fault, and to one with a fault or without a
frame (O58). -/

namespace Sys2Proof.Machine

/-! ### A block the host can go on with -/

/-- In the invariant, with the frame of `a` built and no fault recorded. -/
structure Ready (a : Byte) (s : State) : Prop where
  inv : BlockInv s
  fvalid : s.fvalid = true
  frame : s.frame = quadFull (frameOf a)
  err : s.err = false

/-- A block stays ready through every instruction that builds no other frame and takes no fault. -/
theorem Effect.ready {i : Instr} {s t : State} {a : Byte} (h : Effect s i t) (hs : Ready a s) (hi : ∀ b, i ≠ .frmBuild b)
    (hf : ¬ faultsIn i s) : Ready a t := by
  obtain ⟨hframe, hfvalid⟩ := h.frame_written_by.resolve_right fun ⟨b, hb⟩ => hi b hb
  obtain ⟨hyes, -⟩ | ⟨-, herr, -⟩ := h.faults_or_completes
  · exact absurd hyes hf
  · exact ⟨⟨h.archOk hs.inv.1, h.quiet hs.inv.2⟩, hfvalid.trans hs.fvalid, hframe.trans hs.frame, herr.trans hs.err⟩

theorem gather_rspClr (s : State) :
    gather [.rspClr] s = .next (complete 0x00 (clearMatch (emptyResp s)), [⟨false, 0x00⟩]) :=
  gather_cons (exec_eq_next_iff.mpr .rspClr) (gather_nil _)

theorem Ready.emptied {a : Byte} {s : State} (hs : Ready a s) : Ready a (complete 0x00 (clearMatch (emptyResp s))) :=
  Effect.rspClr.ready hs nofun (by simp [faultsIn])

theorem Ready.pushed {a : Byte} {s : State} (hs : Ready a s) (hlt : s.rcnt < 4) (d : Byte) :
    Ready a (complete 0x00 (clearMatch (pushByte d s))) := by
  have h4 : s.rcnt ≠ 4 := by bv_omega
  exact (Effect.rspPush d hlt).ready hs nofun (by simpa [faultsIn] using h4)

/-- Reading the frame and writing it to the line leaves the block ready. -/
theorem Ready.sent {a : Byte} {s : State} (hs : Ready a s) (d : Byte) (bytes : List Byte) :
    Ready a (sendBytes bytes (complete d s)) :=
  ⟨hs.inv, hs.fvalid, hs.frame, hs.err⟩

/-! ### The bytes held (R37, R93) -/

/-- `RESP` holds exactly these bytes, the first pushed at index 0. -/
def holdsBytes (held : List Byte) (s : State) : Prop :=
  s.resp = ⟨held[0]?, held[1]?, held[2]?, held[3]?⟩ ∧ s.rcnt.toNat = held.length

theorem holdsBytes_emptied (s : State) : holdsBytes [] (complete 0x00 (clearMatch (emptyResp s))) := ⟨rfl, rfl⟩

theorem holdsBytes_pushed {held : List Byte} {s : State} (h : holdsBytes held s) (hlen : held.length < 4) (d : Byte) :
    holdsBytes (held ++ [d]) (complete 0x00 (clearMatch (pushByte d s))) := by
  obtain ⟨hresp, hrcnt⟩ := h
  refine ⟨?_, ?_⟩
  · rw [complete_resp, clearMatch_resp, pushByte_resp, hresp, hrcnt]
    match held, hlen with
    | [], _ | [_], _ | [_, _], _ | [_, _, _], _ => rfl
  · rw [List.length_append, List.length_singleton, ← hrcnt, complete_rcnt, clearMatch_rcnt, pushByte_rcnt]
    bv_omega

/-- Four bytes held are a full buffer. -/
theorem exists_quad_of_holdsBytes {held : List Byte} {s : State} (h : holdsBytes held s) (h4 : s.rcnt = 4) :
    ∃ r, held = quadBytes r ∧ s.resp = quadFull r := by
  obtain ⟨hresp, hrcnt⟩ := h
  rw [h4] at hrcnt
  match held, hrcnt with
  | [w, x, y, z], _ => exact ⟨⟨w, x, y, z⟩, rfl, hresp⟩

theorem quadBytes_injective : Function.Injective quadBytes := by
  rintro ⟨⟩ ⟨⟩ h
  simpa using h

/-- `CMP` on the bytes held says whether they are the frame's, however many there are (R94, R95). -/
theorem effect_cmp_of_holdsBytes {held : List Byte} {f : Quad Byte} {s : State} (hv : s.fvalid = true)
    (hf : s.frame = quadFull f) (h : holdsBytes held s) :
    Effect s .cmp (complete (matchByte (decide (held = quadBytes f))) (setMatch (decide (held = quadBytes f)) s)) := by
  by_cases h4 : s.rcnt = 4
  · obtain ⟨r, rfl, hr⟩ := exists_quad_of_holdsBytes h h4
    have heq : decide (quadBytes r = quadBytes f) = eq4 f r := by
      rw [eq4_comm, eq4_eq_decide, decide_eq_decide]
      exact quadBytes_injective.eq_iff
    rw [heq]
    exact .cmpFull hv h4 hf hr
  · have hne : held ≠ quadBytes f := by
      rintro rfl
      exact h4 (BitVec.eq_of_toNat_eq h.2)
    rw [decide_eq_false hne]
    exact .cmpShort hv h4

/-! ### The response loaded and compared (R120) -/

/-- `RSP_PUSH` of each byte in order, then `CMP`: no fault, and the answer is whether the bytes held are the frame's. -/
theorem gather_pushes_cmp {bytes held : List Byte} {a : Byte} {s : State} (hs : Ready a s) (hheld : holdsBytes held s)
    (hlen : held.length + bytes.length ≤ 4) :
    ∃ t cs, gather (bytes.map .rspPush ++ [.cmp]) s = .next (t, cs) ∧ Ready a t ∧ t.wire = s.wire ∧
      t.matched = decide (held ++ bytes = quadBytes (frameOf a)) ∧ (∀ c ∈ cs, c.err = false) ∧
        cs.getLast? = some ⟨false, matchByte (decide (held ++ bytes = quadBytes (frameOf a)))⟩ := by
  induction bytes generalizing held s with
  | nil =>
    have he := effect_cmp_of_holdsBytes hs.fvalid hs.frame hheld
    rw [List.append_nil]
    refine ⟨_, _, gather_cons (exec_eq_next_iff.mpr he) (gather_nil _), he.ready hs nofun ?_, rfl, rfl, ?_, rfl⟩
    · simp [faultsIn, hs.fvalid]
    · simp
  | cons d bytes ih =>
    rw [List.length_cons] at hlen
    have hlt : s.rcnt < 4 := by
      have hrcnt := hheld.2
      bv_omega
    obtain ⟨t, cs, hrun, ht, hwire, hmatched, hcs, hlast⟩ :=
      ih (hs.pushed hlt d) (holdsBytes_pushed hheld (by omega) d) (by simp; omega)
    rw [List.append_assoc, List.singleton_append] at hmatched hlast
    refine ⟨t, _, gather_cons (exec_eq_next_iff.mpr (.rspPush d hlt)) hrun, ht, hwire, hmatched, ?_, ?_⟩
    · simpa using hcs
    · rw [List.getLast?_append, hlast]
      rfl

/-! ### The exchange (R120, R121) -/

/-- Are the bytes read, of which a read takes four, the frame of `a` (R120, R121)? -/
def isEcho (a : Byte) (received : List Byte) : Bool := decide (received.take 4 = quadBytes (frameOf a))

/-- On a ready block the exchange sends the frame and answers whether its echo came; the block stays ready. -/
theorem exchange_of_ready {a : Byte} {s : State} (hs : Ready a s) (received : List Byte) :
    ∃ t, exchange (.bytes received) s =
        .next ⟨t, quadBytes (frameOf a), .compared (received.take 4) (isEcho a received)⟩ ∧
      Ready a t ∧ t.wire = s.wire ++ quadBytes (frameOf a) ∧ t.matched = isEcho a received := by
  have hsend := gather_frmSend_of_built hs.fvalid hs.frame
  have hclr := gather_rspClr (sendBytes (quadBytes (frameOf a)) (complete (frameOf a).b3 s))
  obtain ⟨t, cs, hload, ht, hwire, hmatched, hcs, hlast⟩ :=
    gather_pushes_cmp (bytes := received.take 4) (hs.sent (frameOf a).b3 (quadBytes (frameOf a))).emptied
      (holdsBytes_emptied _) (by simp)
  refine ⟨t, ?_, ht, hwire, hmatched⟩
  have hanswer : (cs.getLast? == some ⟨false, 0x01⟩) = isEcho a received := by
    rw [hlast, isEcho, List.nil_append]
    cases decide (received.take 4 = quadBytes (frameOf a)) <;> rfl
  calc exchange (.bytes received) s
    _ = _ := issueThen_trusted _ _ hsend (seesFault_eq_false.mpr ⟨hs.err, by simp⟩)
    _ = _ := issueThen_trusted _ _ hclr (seesFault_eq_false.mpr ⟨hs.err, by simp⟩)
    _ = _ := issueThen_trusted _ _ hload (seesFault_eq_false.mpr ⟨ht.err, hcs⟩)
    _ = .next ⟨t, quadBytes (frameOf a), .compared (received.take 4) (isEcho a received)⟩ := by rw [hanswer]; rfl

/-- Without a frame each of the four reads faults, and the later three record nothing new (R84, R106). -/
theorem gather_frmSend_of_not_built {s : State} (hv : s.fvalid = false) :
    gather frmSend s = .next (raise .frameNotBuilt s, List.replicate 4 ⟨true, 0x00⟩) := by
  have hfirst (i : BitVec 2) : exec (.frmRd i) s = .next (raise .frameNotBuilt s) :=
    exec_eq_next_iff.mpr (.frmRdFault i hv)
  have hagain (i : BitVec 2) : exec (.frmRd i) (raise .frameNotBuilt s) = .next (raise .frameNotBuilt s) :=
    exec_eq_next_iff.mpr (.frmRdFault (s := raise .frameNotBuilt s) i hv)
  exact gather_cons (hfirst 0) <| gather_cons (hagain 1) <| gather_cons (hagain 2) <| gather_cons (hagain 3) <|
    gather_nil _

/-- On a block with a fault recorded or no frame the exchange sends nothing and ends with a block reset (R131 (d)). -/
theorem exchange_of_fault {s : State} (hs : BlockInv s) (h : s.err = true ∨ s.fvalid = false) (read : ReadResult) :
    exchange read s = .next ⟨blockReset s, [], .hostFault⟩ := by
  cases hv : s.fvalid with
  | false =>
    rw [exchange, issueThen_fault _ _ (gather_frmSend_of_not_built hv) rfl]
    rfl
  | true =>
    have herr : s.err = true := h.resolve_right (by simp [hv])
    obtain ⟨a, ha⟩ := frame_of_fvalid hs.1 hv
    rw [exchange, issueThen_fault _ _ (gather_frmSend_of_built hv ha) (by simp [seesFault, herr])]
    rfl

/-! ### One cycle of the coordinator (R122, R124) -/

/-- The operation with the delay before its next attempt waited: none before the first (R124). -/
def afterDelay (o : Operation) : Operation := { o with delays := if 0 < o.counter then o.delays + 1 else o.delays }

theorem attemptCycle_of_attempting {env : AttemptEnv} {o : Operation} {x : Exchanged} (hp : o.phase = .attempting)
    (hr : o.result = none) (hdelay : o.counter = 0 ∨ env.cancelInDelay = false)
    (hx : exchange env.read o.block = .next x) :
    attemptCycle env o = .next (afterExchange x (afterDelay o)) := by
  have hgo : ¬ (0 < o.counter ∧ env.cancelInDelay = true) := by
    rintro ⟨hc, he⟩
    obtain h | h := hdelay
    · omega
    · simp [h] at he
  rw [attemptCycle, if_pos ⟨hp, hr⟩, if_neg hgo, hx]
  rfl

/-- Settles O58: the exchange on a ready block, on one with a fault, and the operation around the second. -/
theorem exchangeTrueIffExactEcho : Obligations.ExchangeTrueIffExactEcho := by
  refine ⟨fun received s hs hv herr => ?_, fun read s hs h => exchange_of_fault hs h read,
    fun env o hp hr hs h hdelay => ?_⟩
  · obtain ⟨a, ha⟩ := frame_of_fvalid hs.1 hv
    obtain ⟨t, ht, hready, hwire, -⟩ := exchange_of_ready ⟨hs, hv, ha, herr⟩ received
    exact ⟨_, a, ha, ht, rfl, hwire, rfl, hready.frame.trans ha.symm, hready.err, hready.inv⟩
  · exact ⟨_, attemptCycle_of_attempting hp hr hdelay (exchange_of_fault hs h env.read), rfl, rfl, rfl, rfl⟩

end Sys2Proof.Machine
end

section
/-! SUPPORT. The retry coordinator: attempts counted and bounded (O59), and the ends by cancellation (O60). -/

namespace Sys2Proof.Machine

/-! ### Cycles -/

theorem attemptCycles_cons {env : AttemptEnv} {o o' : Operation} (h : attemptCycle env o = .next o')
    (envs : List AttemptEnv) : attemptCycles (env :: envs) o = attemptCycles envs o' := by
  rw [attemptCycles, h]

/-- An operation that has ended makes no further attempt (R122). -/
theorem attemptCycles_of_ended {o : Operation} (h : o.result ≠ none) (envs : List AttemptEnv) :
    attemptCycles envs o = .next o := by
  induction envs with
  | nil => rfl
  | cons env envs ih =>
    have hcycle : attemptCycle env o = .next o := if_neg fun hgo => h hgo.2
    rw [attemptCycles_cons hcycle, ih]

/-- A cycle that ends the operation is the last one. -/
theorem attemptCycles_of_ending {env : AttemptEnv} {o o' : Operation} (h : attemptCycle env o = .next o')
    (hres : o'.result ≠ none) (rest : List AttemptEnv) : attemptCycles (env :: rest) o = .next o' :=
  (attemptCycles_cons h rest).trans (attemptCycles_of_ended hres rest)

/-! ### Failed attempts (R123, R124) -/

/-- Attempting for the address `a`, after `k` attempts that failed, with a delay waited before each but the first. -/
structure Retrying (a : Byte) (k : Nat) (o : Operation) : Prop where
  phase : o.phase = .attempting
  result : o.result = none
  counter : o.counter = k
  attempts : o.attempts = k
  delays : o.delays = k - 1
  ready : Ready a o.block

section
variable {a : Byte} {k : Nat} {o : Operation} {b : List Byte}

/-- Before the attempt after `k` failed ones `k` delays have been waited. -/
theorem Retrying.delays_afterDelay (ho : Retrying a k o) : (afterDelay o).delays = k := by
  simp only [afterDelay, ho.counter, ho.delays]
  split <;> omega

/-- The next attempt, if nothing cancels it, is an exchange on the ready block. -/
theorem Retrying.attempt (ho : Retrying a k o) (b : List Byte) :
    ∃ t, attemptCycle ⟨false, .bytes b⟩ o =
        .next (afterExchange ⟨t, quadBytes (frameOf a), .compared (b.take 4) (isEcho a b)⟩ (afterDelay o)) ∧
      Ready a t ∧ t.matched = isEcho a b := by
  obtain ⟨t, ht, hready, -, hmatched⟩ := exchange_of_ready ho.ready b
  exact ⟨t, attemptCycle_of_attempting ho.phase ho.result (.inr rfl) ht, hready, hmatched⟩

/-- A mismatch that does not exhaust the bound is one more failed attempt. -/
theorem Retrying.fails (ho : Retrying a k o) (hb : isEcho a b = false) (hk : k + 1 < 3) :
    ∃ o', attemptCycle ⟨false, .bytes b⟩ o = .next o' ∧ Retrying a (k + 1) o' := by
  obtain ⟨t, hcycle, hready, -⟩ := ho.attempt b
  have hmore : ¬ (afterDelay o).counter + 1 = Config.maxAttempts := by
    rw [Config.maxAttempts, show (afterDelay o).counter = k from ho.counter]
    omega
  rw [hb, afterExchange] at hcycle
  simp only [Bool.false_eq_true, if_false, afterFailure, if_neg hmore] at hcycle
  exact ⟨_, hcycle, ho.phase, ho.result, congrArg (· + 1) ho.counter, congrArg (· + 1) ho.attempts, ho.delays_afterDelay,
    hready⟩

/-- The third mismatch ends the operation in failure (R123). -/
theorem Retrying.exhausts (ho : Retrying a 2 o) (hb : isEcho a b = false) :
    ∃ o', attemptCycle ⟨false, .bytes b⟩ o = .next o' ∧ o'.result = some .failure ∧ o'.phase = .exhausted ∧
      o'.attempts = 3 ∧ o'.counter = 3 ∧ o'.delays = 2 ∧ o'.transportOpen = false := by
  obtain ⟨t, hcycle, -⟩ := ho.attempt b
  have hthird : (afterDelay o).counter + 1 = Config.maxAttempts := congrArg (· + 1) ho.counter
  rw [hb, afterExchange] at hcycle
  simp only [Bool.false_eq_true, if_false, afterFailure, if_pos hthird] at hcycle
  exact ⟨_, hcycle, rfl, rfl, congrArg (· + 1) ho.attempts, hthird, ho.delays_afterDelay, rfl⟩

/-- The exact echo ends the operation in success (R121, R122). -/
theorem Retrying.succeeds (ho : Retrying a k o) (hb : isEcho a b = true) :
    ∃ o', attemptCycle ⟨false, .bytes b⟩ o = .next o' ∧ o'.result = some .success ∧ o'.phase = .succeeded ∧
      o'.attempts = k + 1 ∧ o'.delays = k ∧ o'.transportOpen = false ∧ o'.block.matched = true := by
  obtain ⟨t, hcycle, -, hmatched⟩ := ho.attempt b
  rw [hb, afterExchange] at hcycle
  exact ⟨_, hcycle, rfl, rfl, congrArg (· + 1) ho.attempts, ho.delays_afterDelay, rfl, hmatched.trans hb⟩

/-- Mismatches short of the bound leave the operation attempting, each of them counted. -/
theorem Retrying.fails_all {bad : List (List Byte)} (ho : Retrying a k o) (hbad : ∀ b ∈ bad, isEcho a b = false)
    (hk : k + bad.length < 3) (rest : List AttemptEnv) :
    ∃ o', attemptCycles (bad.map (fun b => ⟨false, .bytes b⟩) ++ rest) o = attemptCycles rest o' ∧
      Retrying a (k + bad.length) o' := by
  induction bad generalizing k o with
  | nil => exact ⟨o, rfl, ho⟩
  | cons b bad ih =>
    rw [List.length_cons] at hk ⊢
    obtain ⟨u, hu, hretry⟩ := ho.fails (hbad b (by simp)) (by omega)
    obtain ⟨o', hrun, ho'⟩ := ih hretry (fun c hc => hbad c (by simp [hc])) (by omega)
    refine ⟨o', (attemptCycles_cons hu _).trans hrun, ?_⟩
    rwa [add_assoc, add_comm 1] at ho'

end

/-! ### The operation (R119) -/

theorem blockInv_trusted {s : State} (hs : BlockInv s) : BlockInv (trusted s) := by
  unfold trusted
  split
  · exact blockInv_blockReset s
  · exact hs

/-- An operation whose transport opens begins attempting, no attempt made, on a block with the frame of its address. -/
theorem resetOperation_of_blockInv {s : State} (hs : BlockInv s) (a : Byte) (envs : List AttemptEnv) :
    ∃ o, resetOperation a true envs s = attemptCycles envs o ∧ Retrying a 0 o := by
  have hbuild : Effect (trusted s) (.frmBuild a) _ := .frmBuild a
  have hinv := blockInv_trusted hs
  have herr := trusted_err s
  have hrun := issueThen_trusted (fun r => finish .idle .hostFault (newOperation r))
    (fun s1 _ => attemptCycles envs { newOperation s1 with phase := .attempting, transportOpen := true })
    (gather_cons (exec_eq_next_iff.mpr hbuild) (gather_nil _)) (seesFault_eq_false.mpr ⟨herr, by simp⟩)
  exact ⟨_, hrun, rfl, rfl, rfl, rfl, rfl, ⟨hbuild.archOk hinv.1, hbuild.quiet hinv.2⟩, rfl, rfl, herr⟩

/-- With mismatches short of the bound the operation is attempting after them. -/
theorem resetOperation_mismatches {s : State} {a : Byte} {bad : List (List Byte)} (hs : BlockInv s)
    (hbad : ∀ b ∈ bad, isEcho a b = false) (hlt : bad.length < 3) (rest : List AttemptEnv) :
    ∃ o, resetOperation a true (bad.map (fun b => ⟨false, .bytes b⟩) ++ rest) s = attemptCycles rest o ∧
      Retrying a bad.length o := by
  obtain ⟨o, hstart, ho⟩ := resetOperation_of_blockInv hs a (bad.map (fun b => ⟨false, .bytes b⟩) ++ rest)
  obtain ⟨o', hrun, ho'⟩ := ho.fails_all hbad (by omega) rest
  rw [zero_add] at ho'
  exact ⟨o', hstart.trans hrun, ho'⟩

/-- Settles O59: the mismatches before the last read are counted; that read exhausts the bound or is the echo. -/
theorem retriesAreBounded : Obligations.RetriesAreBounded := by
  intro a s bad rest hs hbad
  replace hbad : ∀ b ∈ bad, isEcho a b = false := fun b hb => decide_eq_false (hbad b hb)
  refine ⟨fun h3 => ?_, fun hlt => ?_⟩
  · obtain ⟨first, last, rfl⟩ := (List.eq_nil_or_concat' bad).resolve_left (by rintro rfl; cases h3)
    have h2 : first.length = 2 := by simpa using h3
    obtain ⟨o, hrun, ho⟩ := resetOperation_mismatches (bad := first) hs (fun b hb => hbad b (by simp [hb])) (by omega)
      (⟨false, .bytes last⟩ :: rest)
    rw [h2] at ho
    obtain ⟨o', hlast, hres, hphase, hattempts, hcounter, hdelays, hopen⟩ := ho.exhausts (hbad last (by simp))
    have hend := hrun.trans (attemptCycles_of_ending hlast (by simp [hres]) rest)
    refine ⟨o', by simpa using hend, hres, hphase, hattempts, hcounter, hdelays, ?_, hopen⟩
    rw [waitedMs, hdelays]
    rfl
  · obtain ⟨o, hrun, ho⟩ := resetOperation_mismatches hs hbad hlt (⟨false, .bytes (quadBytes (frameOf a))⟩ :: rest)
    obtain ⟨o', hlast, hres, hend⟩ := ho.succeeds (b := quadBytes (frameOf a)) (decide_eq_true rfl)
    exact ⟨o', hrun.trans (attemptCycles_of_ending hlast (by simp [hres]) rest), hres, hend⟩

/-! ### Cancellation (R125) -/

/-- Everything a cycle of an operation that is attempting can do with a next state. -/
theorem attemptCycle_cases {env : AttemptEnv} {o o' : Operation} (hp : o.phase = .attempting) (hr : o.result = none)
    (h : attemptCycle env o = .next o') :
    (0 < o.counter ∧ env.cancelInDelay = true ∧ o' = finish o.phase .cancellation o) ∨
      (¬ (0 < o.counter ∧ env.cancelInDelay = true) ∧
        ∃ x, exchange env.read o.block = .next x ∧ o' = afterExchange x (afterDelay o)) := by
  rw [attemptCycle, if_pos ⟨hp, hr⟩] at h
  split at h
  case isTrue hgo =>
    cases h
    exact .inl ⟨hgo.1, hgo.2, rfl⟩
  case isFalse hgo =>
    split at h
    case h_1 x hx =>
      cases h
      exact .inr ⟨hgo, x, hx, rfl⟩
    all_goals cases h

/-- Everything issuing commands can do with an answer: the commands ran, and the host goes on or ends with a block reset. -/
theorem issueThen_cases {α : Type} {is : List Instr} {s : State} {onFault : State → α}
    {f : State → List Completion → Host.Outcome α Fault Refusal} {x : α} (h : issueThen is s onFault f = .next x) :
    ∃ t cs, gather is s = .next (t, cs) ∧
      ((seesFault t cs = true ∧ x = onFault (blockReset t)) ∨ (seesFault t cs = false ∧ f t cs = .next x)) := by
  unfold issueThen at h
  split at h
  case h_1 t cs hrun =>
    refine ⟨t, cs, hrun, ?_⟩
    split at h
    case isTrue hf =>
      cases h
      exact .inl ⟨hf, rfl⟩
    case isFalse hf => exact .inr ⟨by simpa using hf, h⟩
  all_goals cases h

/-- A sequence that answers is its first command, then the rest from there. -/
theorem gather_cons_eq_next {i : Instr} {is : List Instr} {s u : State} {cs : List Completion}
    (h : gather (i :: is) s = .next (u, cs)) :
    ∃ t cs', exec i s = .next t ∧ gather is t = .next (u, cs') ∧ cs = t.rsp.toList ++ cs' := by
  rw [gather] at h
  split at h
  case h_1 t ht =>
    split at h
    case h_1 v cs' hv =>
      cases h
      exact ⟨t, cs', ht, hv, rfl⟩
    all_goals cases h
  all_goals cases h

/-- A sequence none of whose instructions faults, by a property of the states on its way, shows no fault. -/
theorem gather_of_no_fault {P : State → Prop} {is : List Instr} {s t : State} {cs : List Completion}
    (hstep : ∀ i ∈ is, ∀ u v, P u → Effect u i v → ¬ faultsIn i u ∧ P v) (hs : P s) (h : gather is s = .next (t, cs)) :
    t.err = s.err ∧ ∀ c ∈ cs, c.err = false := by
  induction is generalizing s cs with
  | nil => cases h; exact ⟨rfl, by simp⟩
  | cons i is ih =>
    obtain ⟨u, cs', hu, hrest, rfl⟩ := gather_cons_eq_next h
    have he := effect_of_exec hu
    obtain ⟨hno, hPu⟩ := hstep i (by simp) s u hs he
    obtain ⟨hf, -⟩ | ⟨-, huerr, hursp⟩ := he.faults_or_completes
    · exact absurd hf hno
    · obtain ⟨hterr, hcs⟩ := ih (fun j hj => hstep j (by simp [hj])) hPu hrest
      refine ⟨hterr.trans huerr, fun c hc => ?_⟩
      obtain hc | hc := List.mem_append.mp hc
      · exact hursp c (by simpa using hc)
      · exact hcs c hc

/-- With a frame and no fault recorded `FRM_SEND` shows no fault: its reads keep the frame. -/
theorem seesFault_frmSend {s t : State} {cs : List Completion} (herr : s.err = false) (hv : s.fvalid = true)
    (h : gather frmSend s = .next (t, cs)) : seesFault t cs = false := by
  have hread : ∀ i ∈ frmSend, ∀ u v : State, u.fvalid = true → Effect u i v → ¬ faultsIn i u ∧ v.fvalid = true := by
    intro i hi u v hu he
    obtain ⟨n, -, rfl⟩ := List.mem_map.mp (show i ∈ [0, 1, 2, 3].map Instr.frmRd from hi)
    obtain ⟨-, hkept⟩ := he.frame_written_by.resolve_right nofun
    exact ⟨by simp [faultsIn, hu], hkept.trans hu⟩
  obtain ⟨hterr, hcs⟩ := gather_of_no_fault hread hv h
  exact seesFault_eq_false.mpr ⟨hterr.trans herr, hcs⟩

/-- An exchange whose read is cancelled leaves `MATCH` 0, and ends cancelled or, if the block had no frame or a fault, as the
host's fault (R131 (d)). -/
theorem exchange_cancelled {s : State} {x : Exchanged} (h : exchange .cancelled s = .next x) :
    x.block.matched = false ∧
      (x.outcome = .cancelled ∨ (x.outcome = .hostFault ∧ ¬ (s.err = false ∧ s.fvalid = true))) := by
  obtain ⟨t, cs, hsend, ⟨hf, rfl⟩ | ⟨hf, hgo⟩⟩ := issueThen_cases h
  · refine ⟨rfl, .inr ⟨rfl, fun ⟨herr, hv⟩ => ?_⟩⟩
    cases hf.symm.trans (seesFault_frmSend herr hv hsend)
  · have hterr := (seesFault_eq_false.mp hf).1
    have hclr := issueThen_trusted (α := Exchanged) (fun r => ⟨r, cs.map (·.data), .hostFault⟩)
      (fun s2 _ => .next ⟨s2, cs.map (·.data), .cancelled⟩) (gather_rspClr (sendBytes (cs.map (·.data)) t))
      (seesFault_eq_false.mpr ⟨hterr, by simp⟩)
    cases hclr.symm.trans hgo
    exact ⟨rfl, .inl rfl⟩

/-- Settles O60: a cycle that is cancelled is so in the delay, before any command, or in the read. -/
theorem cancellationIsNeverSuccess : Obligations.CancellationIsNeverSuccess := by
  intro env o o' hp hr h
  refine ⟨fun hc he => ?_, fun hread => ?_, fun envs o'' hres hrun => ?_⟩
  · obtain ⟨-, -, rfl⟩ | ⟨hgo, -⟩ := attemptCycle_cases hp hr h
    · exact ⟨rfl, rfl, rfl, rfl⟩
    · exact absurd ⟨hc, he⟩ hgo
  · obtain ⟨-, -, rfl⟩ | ⟨-, ⟨t, sent, outcome⟩, hx, rfl⟩ := attemptCycle_cases hp hr h
    · exact ⟨nofun, nofun, rfl, id, fun _ _ => rfl⟩
    · rw [hread] at hx
      obtain ⟨hmatched, rfl | ⟨rfl, hfault⟩⟩ := exchange_cancelled hx
      · exact ⟨nofun, nofun, rfl, fun _ => hmatched, fun _ _ => rfl⟩
      · exact ⟨nofun, nofun, rfl, fun _ => hmatched, fun herr hv => absurd ⟨herr, hv⟩ hfault⟩
  · cases (attemptCycles_of_ended (by simp [hres]) envs).symm.trans hrun
    rfl

end Sys2Proof.Machine
end

section
/-! SUPPORT. Block reset at a clock edge (O12, O13), and `FRM_BUILD` inside the host's own message (O29). -/

namespace Sys2Proof.Machine

/-! ### Reset at an edge (R133 to R135) -/

/-- Reset has priority over everything, a command in hand and one presented among it (R133, R135). -/
theorem edge_resets {p : Inputs} (hp : p.rst = true) (s : State) : edge p s = .next (blockReset s) :=
  if_pos hp

/-- Reset keeps only what is not the block's, the host's events and the wire (R134; log 17). -/
theorem blockReset_eq_of_host_eq {s₁ s₂ : State} (hin : s₁.inputs = s₂.inputs) (hwire : s₁.wire = s₂.wire) :
    blockReset s₁ = blockReset s₂ := by
  rw [blockReset, blockReset, hin, hwire]

/-- Settles O12: the edge is a block reset, which leaves neither a command in hand nor a strobe. -/
theorem resetWinsFromAnyState : Obligations.ResetWinsFromAnyState := by
  intro p s u hp
  have hreset := edge_resets hp s
  refine ⟨hreset, by simp [outputs, hp], fun t ht => ?_⟩
  cases hreset.symm.trans ht
  exact ⟨rfl, rfl, rfl⟩

/-- Settles O13: the two blocks are equal from the reset on, so whatever follows is the same. -/
theorem resetErasesThePast : Obligations.ResetErasesThePast := by
  intro s₁ s₂ hin hwire
  have hreset := blockReset_eq_of_host_eq hin hwire
  refine ⟨congrArg Host.Outcome.next hreset, fun p ps hp => ?_⟩
  rw [edges, edges, edge_resets hp, edge_resets hp, hreset]

/-! ### The shared accumulator (R138) -/

/-- `FRM_BUILD` in any state, then message bytes: they continue from the frame's checksum (R82, R138). -/
theorem runAll_frmBuild_bytes (a : Byte) (later : List Byte) (s : State) :
    runAll (.frmBuild a :: later.map .crcByte) s =
      .next (complete 0x00 (setAcc (crc16 (a :: Config.funcReset :: later)) (storeBuilt (frameOf a) s))) :=
  runAll_map_crcByte later (crc16 [a, Config.funcReset]) (storeBuilt (frameOf a) s)

/-- Settles O29: the message runs, and what it left in `ACC` is overwritten. -/
theorem frmBuildReplacesChecksumInProgress : Obligations.FrmBuildReplacesChecksumInProgress := by
  intro m later a s
  have hmsg (is : List Instr) : runAll (crcMsg m ++ is) s = runAll is (complete 0x00 (setAcc (crc16 m) s)) := by
    rw [runAll_append, runAll_crcMsg, andThen_next]
  exact ⟨_, (hmsg _).trans (runAll_frmBuild_bytes a later _), rfl, crc16_append [a, Config.funcReset] later, rfl, rfl, rfl⟩

end Sys2Proof.Machine
end
